-- ==== Sys2Proof/Word.lean ====
section
/-! DEFINITION. The word types of the metering core: command words, response words, binary32 patterns, sample
codes and timestamps (spec/00_scope.md R11, R14; spec/30_encoding.md R90, R100). -/

namespace Sys2Proof

/-- A command word: `op[63:56] ch[55:48] aux[47:32] data[31:0]` (R90). -/
abbrev CommandWord := BitVec 64

/-- A word of a response, or a 32-bit counter or register (R100, R140). -/
abbrev Word32 := BitVec 32

/-- A 32-bit pattern read as IEEE 754 binary32 (R14, R151). -/
abbrev F32 := BitVec 32

/-- A raw sample code, held in the 16 bits of the field `aux` that carries it. It is an unsigned integer below
`2^ADC_BITS`; the bound is a check of the decoder (R98) and an invariant of the state. -/
abbrev Code := BitVec 16

/-- A timestamp: unsigned 32-bit milliseconds (R14). -/
abbrev Timestamp := BitVec 32

end Sys2Proof
end

