-- ==== Sys2Proof/Config.lean ====
section
/-! DEFINITION. What an instance of the metering core fixes: the parameters of spec/00_scope.md R6, the numerics
record of spec/41_arithmetic.md R150, and the free bits of a NaN (R154). -/

namespace Sys2Proof

/-- The type of the numerics record of R150: total functions on 32-bit patterns. The stages of PROCESS_FRAME take any
record; the machine runs the record of its instance, `Params.numerics`. -/
structure Numerics where
  /-- `fadd(a, b)` -/
  fadd : F32 → F32 → F32
  /-- `fmul(a, b)` -/
  fmul : F32 → F32 → F32
  /-- `fdiv(a, b)` -/
  fdiv : F32 → F32 → F32
  /-- `fsqrt(a)` -/
  fsqrt : F32 → F32
  /-- `u2f(n)` -/
  u2f : Nat → F32
  /-- `i2f(d)` -/
  i2f : Int → F32
  /-- `fgt(a, b)` -/
  fgt : F32 → F32 → Bool
  /-- `flt(a, b)` -/
  flt : F32 → F32 → Bool
  /-- `isnan(a)` -/
  isnan : F32 → Bool
  deriving Inhabited

/-- The field `NUMERICS` of an instance's configuration (R6, R150): which numerics record its math backend provides. It
names the record, so that it is plain data (log entry 3). -/
inductive NumericsChoice where
  /-- the default record: IEEE 754 binary32 with the rules R151 to R157 -/
  | ieee754
  /-- another backend, known by a number -/
  | backend (id : Nat)
  deriving DecidableEq, Repr

/-- The record of another backend. Nothing is assumed of it (R150, U4): no value of it can be proved, so a claim about
every instance holds whatever the records of other backends are (log entry 3). -/
opaque Config.backendRecord : Nat → Numerics

/-- The named parameters of R6. Constants of one instance: no step changes them (R21). They are plain data so that State
can carry them and every claim quantifies over them (log entry 1, DESIGN CHOICE, safe). -/
structure Params where
  /-- `V`, the number of voltage channels -/
  v : Nat
  /-- `CT`, the number of current channels -/
  ct : Nat
  /-- `ADC_BITS`, the width of a raw sample code -/
  adcBits : Nat
  /-- `ADC_VREF`, the ADC reference voltage in volts -/
  adcVref : F32
  /-- `SAMPLE_RATE` in Hz; "timing only; no rule reads it" (R6) -/
  sampleRate : Nat
  /-- `REF`, the index of the reference voltage channel -/
  ref : Nat
  /-- `CT_PROC_MAX`, the most current channels processed -/
  ctProcMax : Nat
  /-- `REPORT_CYCLES`, the reset value of `report_cycles` -/
  reportCycles : Word32
  /-- `MAINS_FREQUENCY`, the reset value of `mains_frequency` -/
  mainsFrequency : F32
  /-- `VCAL_DEFAULT` -/
  vcalDefault : F32
  /-- `ICAL_DEFAULT` -/
  icalDefault : F32
  /-- `PF_DEFAULT` -/
  pfDefault : F32
  /-- `FRAME_MAX`, the longest frame the direct frame port takes -/
  frameMax : Nat
  /-- `NUMERICS`, the binary32 operations (R150) -/
  numerics : NumericsChoice
  deriving DecidableEq, Repr

/-- `VCT_TOTAL = V + CT` (R7). -/
abbrev Params.vctTotal (p : Params) : Nat := p.v + p.ct

/-- `CT_ACTIVE = min(CT, CT_PROC_MAX)` (R7). -/
abbrev Params.ctActive (p : Params) : Nat := min p.ct p.ctProcMax

/-- `REPORT_WORDS = V + 5*CT + 1` (R7). -/
abbrev Params.reportWords (p : Params) : Nat := p.v + 5 * p.ct + 1

/-- The reference values of R6 (configuration CFG-A): the instance that `State.reset` builds. `REPORT_CYCLES` is 1,
as spec/95_test_vectors.md has it "unless a vector says otherwise"; `SAMPLE_RATE`, for which R6 gives no reference
value, is the source's example of 4.8 kHz (log entries 1 and 2, DESIGN CHOICE, unsafe for a claim about `State.reset`
alone). -/
def Params.reference : Params where
  v := 1
  ct := 2
  adcBits := 12
  adcVref := 0x40800000#32
  sampleRate := 4800
  ref := 0
  ctProcMax := 6
  reportCycles := 1#32
  mainsFrequency := 0x42480000#32
  vcalDefault := 0x3F800000#32
  icalDefault := 0x3F800000#32
  pfDefault := 0x00000000#32
  frameMax := 65535
  numerics := .ieee754

/-- The operations of the default record that can return a NaN (R153). -/
inductive NanSource where
  | fadd | fmul | fdiv | fsqrt
  deriving DecidableEq, Repr

/-- The sign bit (bit 23) and the fraction bits (22:0) of the NaN that an operation returns on its operands: "not
fixed by this spec ... a free draw" (R154). No value of it can be proved. It is a function of the operation and its
operands because R150 makes every operation a function on 32-bit patterns (log entry 4, DESIGN CHOICE, safe where a
statement uses no more than R154 gives). -/
opaque Config.freeNan : NanSource → F32 → F32 → BitVec 24

end Sys2Proof
end

