-- ==== Sys2Proof/Syntax.lean ====
section
/-! DEFINITION. The commands of the metering core, one constructor per row of spec/opcode_table.json
(spec/30_encoding.md R91 to R94). -/

namespace Sys2Proof

/-- One command word. `FRAME` is its header word; its data words are the `FDAT` words that follow it (R94). -/
inductive Instr where
  /-- `NOP`, R250 -/
  | nop
  /-- `PUSH code, ts`, R120 -/
  | push (code : Code) (ts : Timestamp)
  /-- the header word of `FRAME ts, [c0, ..., c(len-1)]`, R230, R94 -/
  | frame (len : BitVec 16) (ts : Timestamp)
  /-- the data word `FDAT code` of a `FRAME` burst, R94 -/
  | fdat (code : Code)
  /-- `SETV ch, scale`, R252 -/
  | setv (ch : BitVec 8) (scale : F32)
  /-- `SETI ch, scale`, R254 -/
  | seti (ch : BitVec 8) (scale : F32)
  /-- `RSTE`, R256 -/
  | rste
  /-- `GETE`, R258 -/
  | gete
  /-- `POPR`, R260 -/
  | popr
  /-- `OVRN`, R126 -/
  | ovrn
  /-- `DIAG`, R262 -/
  | diag
  deriving DecidableEq, Repr

end Sys2Proof
end

