-- ==== Sys2Proof/WellFormed.lean ====
section
/-! DEFINITION. The checks on an instruction's operands that depend on the instance: a code below `2^ADC_BITS`
(spec/30_encoding.md R98) and a frame length of at most `FRAME_MAX` (R96 e). A channel index and a scale are not
checked here: "checked against V or CT by the command, not by the decoder", "every pattern ... is a legal operand"
(R93). -/

namespace Sys2Proof

/-- R98: a code is in `[0, 2^ADC_BITS)`. -/
def codeInRange (p : Params) (code : Code) : Bool :=
  decide (code.toNat < 2 ^ p.adcBits)

/-- R96 e: a header's `len` is at most `FRAME_MAX`. -/
def lenInRange (p : Params) (len : BitVec 16) : Bool :=
  decide (len.toNat ≤ p.frameMax)

/-- An instruction that some legal word of the instance carries. -/
def Instr.wellFormed (p : Params) : Instr → Bool
  | .push code _ => codeInRange p code
  | .frame len _ => lenInRange p len
  | .fdat code => codeInRange p code
  | .nop => true
  | .setv _ _ => true
  | .seti _ _ => true
  | .rste => true
  | .gete => true
  | .popr => true
  | .ovrn => true
  | .diag => true

end Sys2Proof
end

