-- ==== Sys2Proof/Decode.lean ====
section
/-! DEFINITION. The decoder, total on every 64-bit word and rejecting by name, and the encoder, both from
spec/30_encoding.md R90 to R98; `decodeTableWord` for the host. -/

namespace Sys2Proof

/-- Why a word is illegal (R96). -/
inductive DecodeError where
  /-- R96 a: `op` in `0x0B .. 0xFF` -/
  | unknownOpcode
  /-- R96 c, R95: a reserved field is non-zero -/
  | reservedField
  /-- R96 d, R98: a code at or above `2^ADC_BITS` -/
  | codeOutOfRange
  /-- R96 e: a `FRAME` header with `len > FRAME_MAX` -/
  | frameTooLong
  /-- R94: a word of a burst that is not a well-formed `FDAT` word -/
  | malformedDataWord
  deriving DecidableEq, Repr

/-- `op`, bits 63:56 (R90). -/
def fieldOp (w : CommandWord) : BitVec 8 := w.extractLsb' 56 8

/-- `ch`, bits 55:48 (R90). -/
def fieldCh (w : CommandWord) : BitVec 8 := w.extractLsb' 48 8

/-- `aux`, bits 47:32 (R90). -/
def fieldAux (w : CommandWord) : BitVec 16 := w.extractLsb' 32 16

/-- `data`, bits 31:0 (R90). -/
def fieldData (w : CommandWord) : BitVec 32 := w.extractLsb' 0 32

/-- `{op, ch, aux, data}` (R90, R11). -/
def packWord (op : BitVec 8) (ch : BitVec 8) (aux : BitVec 16) (data : BitVec 32) : CommandWord :=
  op.setWidth 64 <<< 56 ||| ch.setWidth 64 <<< 48 ||| aux.setWidth 64 <<< 32 ||| data.setWidth 64

/-- The instruction whose reserved fields `reserved` must be zero (R95), subject to the range check `inRange` (R96 d,
e). -/
def checked (reserved : Bool) (inRange : Bool) (rangeError : DecodeError) (i : Instr) :
    Except DecodeError Instr :=
  if reserved then (if inRange then .ok i else .error rangeError) else .error .reservedField

/-- A format N word: every field but `op` is reserved (R91). -/
def decodeN (w : CommandWord) (i : Instr) : Except DecodeError Instr :=
  checked (fieldCh w == 0 && fieldAux w == 0 && fieldData w == 0) true .reservedField i

/-- The decoder for a word taken outside a burst (R92, R95, R96). A well-formed `FDAT` word decodes to `fdat`; that
it is illegal outside a burst (R96 b) is said by the meaning of `fdat`. -/
def decode (p : Params) (w : CommandWord) : Except DecodeError Instr :=
  match (fieldOp w).toNat with
  | 0x00 => decodeN w .nop
  | 0x01 => checked (fieldCh w == 0) (codeInRange p (fieldAux w)) .codeOutOfRange
      (.push (fieldAux w) (fieldData w))
  | 0x02 => checked (fieldCh w == 0) (lenInRange p (fieldAux w)) .frameTooLong
      (.frame (fieldAux w) (fieldData w))
  | 0x03 => checked (fieldCh w == 0 && fieldData w == 0) (codeInRange p (fieldAux w)) .codeOutOfRange
      (.fdat (fieldAux w))
  | 0x04 => checked (fieldAux w == 0) true .reservedField (.setv (fieldCh w) (fieldData w))
  | 0x05 => checked (fieldAux w == 0) true .reservedField (.seti (fieldCh w) (fieldData w))
  | 0x06 => decodeN w .rste
  | 0x07 => decodeN w .gete
  | 0x08 => decodeN w .popr
  | 0x09 => decodeN w .ovrn
  | 0x0A => decodeN w .diag
  | _ => .error .unknownOpcode

/-- The decoder with its context: inside a burst every word is "taken as data words unconditionally, whatever their
`op` field says", and each "must be a well-formed `FDAT` word" (R94). -/
def decodeIn (inBurst : Bool) (p : Params) (w : CommandWord) : Except DecodeError Instr :=
  if inBurst then
    match decode p w with
    | .ok (.fdat code) => .ok (.fdat code)
    | _ => .error .malformedDataWord
  else decode p w

/-- The opcode of an instruction (R92). -/
def opcode : Instr → BitVec 8
  | .nop => 0x00
  | .push _ _ => 0x01
  | .frame _ _ => 0x02
  | .fdat _ => 0x03
  | .setv _ _ => 0x04
  | .seti _ _ => 0x05
  | .rste => 0x06
  | .gete => 0x07
  | .popr => 0x08
  | .ovrn => 0x09
  | .diag => 0x0A

/-- The word of an instruction, by the formats of R91. -/
def encode (i : Instr) : CommandWord :=
  match i with
  | .nop => packWord (opcode i) 0 0 0
  | .push code ts => packWord (opcode i) 0 code ts
  | .frame len ts => packWord (opcode i) 0 len ts
  | .fdat code => packWord (opcode i) 0 code 0
  | .setv ch scale => packWord (opcode i) ch 0 scale
  | .seti ch scale => packWord (opcode i) ch 0 scale
  | .rste => packWord (opcode i) 0 0 0
  | .gete => packWord (opcode i) 0 0 0
  | .popr => packWord (opcode i) 0 0 0
  | .ovrn => packWord (opcode i) 0 0 0
  | .diag => packWord (opcode i) 0 0 0

/-- The words of the whole command `FRAME ts, codes`: the header, then one `FDAT` word a code (R94, R106). -/
def encodeFrame (ts : Timestamp) (codes : List Code) : List CommandWord :=
  encode (.frame (BitVec.ofNat 16 codes.length) ts) :: codes.map fun c => encode (.fdat c)

/-- The 64-bit word whose `nbits` low bits are those of `w`, the bits above being 0. -/
def tableWord (nbits w : Nat) : CommandWord := BitVec.ofNat 64 (w % 2 ^ nbits)

/-- The instruction that the decoder reads, on the reference instance, from a row's word (the host's question). Every
row of the table is one 64-bit word. -/
def decodeTableWord (nbits w : Nat) : Option Instr :=
  match decode Params.reference (tableWord nbits w) with
  | .ok i => some i
  | .error _ => none

end Sys2Proof
end

