-- ==== Sys2Proof/Machine/State.lean ====
section
/-! DEFINITION. The architectural state of spec/10_state.md R20, the model's own input and output fields, why a step
can stop, and the machine right after reset (spec/70_reset_and_hazards.md R330). -/

namespace Sys2Proof.Machine

/-- Why the machine stops with a fault. -/
inductive Fault where
  /-- Raised by `PUSH` in a state with `asm_fill >= VCT_TOTAL`. R37 and R123 call it unreachable and say that a model
  "may fault on it". Safe: the machine stops where the spec gives no effect. -/
  | assemblerOverflow
  deriving DecidableEq, Repr

/-- Why the model gives no meaning. -/
inductive Refusal where
  /-- Raised by an arm of `exec` whose instruction has no meaning yet. Safe. No arm raises it. -/
  | notModelled (mnemonic : String)
  /-- Raised by `step` for an instance whose parameters are outside the ranges of R6 and R332: "a model refuses it"
  (R332, U6). Safe: such an instance does not exist. -/
  | illegalInstance
  deriving DecidableEq, Repr

/-- The response codes of R102. -/
inductive RespCode where
  | ok
  | insufficientSamples
  | invalidChannelIndex
  | sampleOverrun
  | clockNonMonotonic
  | empty
  | illegalCommand
  deriving DecidableEq, Repr

/-- The response flags of R101. They are outputs of one command and are not kept by the hardware (R45). -/
structure RespFlags where
  /-- `RPT`: this command emitted a report -/
  rpt : Bool := false
  /-- `CNM`: this command raised `ClockNonMonotonic` -/
  cnm : Bool := false
  /-- `FDONE`: this `PUSH` completed a scan -/
  fdone : Bool := false
  /-- `DROP`: this command overwrote an unconsumed slot entry -/
  drop : Bool := false
  deriving DecidableEq, Repr

/-- A response `(code, flags, data)` (R100). -/
structure Response where
  code : RespCode
  flags : RespFlags
  data : List Word32
  deriving DecidableEq, Repr

/-- An entry of `fslot`: a frame and its timestamp (R38). -/
structure FrameEntry where
  frame : List Code
  ts : Timestamp
  deriving DecidableEq, Repr

/-- The report record of R104. -/
structure Report where
  voltageRms : List F32
  currentRms : List F32
  realPower : List F32
  apparentPower : List F32
  powerFactor : List F32
  frequency : F32
  energyWh : List F32
  deriving DecidableEq, Repr

/-- An entry of `rslot`: a report and the timestamp of the frame that produced it (R39). -/
structure ReportEntry where
  report : Report
  ts : Timestamp
  deriving DecidableEq, Repr

/-- The `FRAME` command whose data words are still arriving (R94): how many are to come, the header's timestamp, the
codes so far, and whether some word was not a well-formed `FDAT` word. -/
structure Burst where
  remaining : Nat
  ts : Timestamp
  codes : List Code
  malformed : Bool
  deriving DecidableEq, Repr

/-- Whose step is next: a command word is taken from the command port, or the Metering tier takes its autonomous
step `METER` (R10, R232). -/
inductive Turn where
  | command
  | meter
  deriving DecidableEq, Repr

/-- The state of the metering core. The fields from `vcal` to `faultInd` are the tuple of R20; the others are the
model's own (log entries 1, 5, 9, 10). -/
structure State where
  /-- the parameters of this instance; no step changes them (R21) -/
  params : Params
  /-- `vcal[V]`, R22 -/
  vcal : List F32
  /-- `ical[CT]`, R23 -/
  ical : List F32
  /-- `phase_cal[CT]`, R26 -/
  phaseCal : List F32
  /-- `energy[CT]`, R27 -/
  energy : List F32
  /-- `frames_since_report`, R28 -/
  framesSinceReport : Word32
  /-- `last_timestamp_ms`, R29 -/
  lastTimestampMs : Timestamp
  /-- `ts_valid`, R30 -/
  tsValid : Bool
  /-- `report_cycles`, R31 -/
  reportCycles : Word32
  /-- `mains_frequency`, R32 -/
  mainsFrequency : F32
  /-- `pf_hold[CT]`, R33 -/
  pfHold : List F32
  /-- `asm_fill`, R35 -/
  asmFill : Nat
  /-- `abuf[VCT_TOTAL]`, R36 -/
  abuf : List Code
  /-- `fslot`, R38 -/
  fslot : Option FrameEntry
  /-- `rslot`, R39 -/
  rslot : Option ReportEntry
  /-- `overrun_count`, R40 -/
  overrunCount : Word32
  /-- `frame_drop_count`, R41 -/
  frameDropCount : Word32
  /-- `report_drop_count`, R42 -/
  reportDropCount : Word32
  /-- `nm_count`, R43 -/
  nmCount : Word32
  /-- `fault_ind`, R44: bit 0 for `fslot`, bit 1 for `rslot` -/
  faultInd : BitVec 2
  /-- the command words presented and not yet taken, oldest first (R90) -/
  port : List CommandWord
  /-- the schedule: whose turn the next steps are (R292, U14) -/
  turns : List Turn
  /-- the `FRAME` command in transit (R94) -/
  burst : Option Burst
  /-- the response port: the response of the last command, if it has answered (R100) -/
  response : Option Response
  deriving DecidableEq, Repr

/-- `RESET()` of R330 for the instance with parameters `p`, with nothing presented at the inputs. -/
def State.resetOf (p : Params) : State where
  params := p
  vcal := List.replicate p.v p.vcalDefault
  ical := List.replicate p.ct p.icalDefault
  phaseCal := List.replicate p.ct 0#32
  energy := List.replicate p.ct 0#32
  framesSinceReport := 0#32
  lastTimestampMs := 0#32
  tsValid := false
  reportCycles := p.reportCycles
  mainsFrequency := p.mainsFrequency
  pfHold := List.replicate p.ct p.pfDefault
  asmFill := 0
  abuf := List.replicate (p.v + p.ct) 0#16
  fslot := none
  rslot := none
  overrunCount := 0#32
  frameDropCount := 0#32
  reportDropCount := 0#32
  nmCount := 0#32
  faultInd := 0b00#2
  port := []
  turns := []
  burst := none
  response := none

/-- The machine right after reset: the reference instance of R6 (log entries 1 and 2). -/
def State.reset : State := State.resetOf Params.reference

end Sys2Proof.Machine
end

