-- ==== Sys2Proof/Machine/Flags.lean ====
section
/-! DEFINITION. Responses as words: the codes of spec/30_encoding.md R102, the flags of R101, the status word of R100,
and the report record as words (R104). -/

namespace Sys2Proof.Machine

/-- The number of a response code (R102). -/
def RespCode.bits : RespCode → BitVec 4
  | .ok => 0
  | .insufficientSamples => 1
  | .invalidChannelIndex => 2
  | .sampleOverrun => 3
  | .clockNonMonotonic => 4
  | .empty => 5
  | .illegalCommand => 15

/-- Bits 7:4 of the status word: `RPT` bit 4, `CNM` bit 5, `FDONE` bit 6, `DROP` bit 7 (R100). -/
def RespFlags.bits (f : RespFlags) : BitVec 4 :=
  (BitVec.ofBool f.drop).setWidth 4 <<< 3 ||| (BitVec.ofBool f.fdone).setWidth 4 <<< 2 |||
    (BitVec.ofBool f.cnm).setWidth 4 <<< 1 ||| (BitVec.ofBool f.rpt).setWidth 4

/-- The status word: `n` in 31:16, zero in 15:8, `flags` in 7:4, `code` in 3:0 (R100). -/
def Response.statusWord (r : Response) : Word32 :=
  (BitVec.ofNat 16 r.data.length).setWidth 32 <<< 16 ||| r.flags.bits.setWidth 32 <<< 4 ||| r.code.bits.setWidth 32

/-- All words of a response: the status word and the data words (R100). -/
def Response.words (r : Response) : List Word32 := r.statusWord :: r.data

/-- The report record as binary32 words, in the field order of R104. -/
def Report.words (r : Report) : List F32 :=
  r.voltageRms ++ r.currentRms ++ r.realPower ++ r.apparentPower ++ r.powerFactor ++ [r.frequency] ++ r.energyWh

end Sys2Proof.Machine
end

