-- ==== Sys2Proof/Machine/Binary32.lean ====
section
/-! DEFINITION. The default numerics record of spec/41_arithmetic.md R150 to R157: IEEE 754 binary32, round to nearest
with ties to even, no fused operation, gradual underflow. Each operation converts its operands to integers, computes
exactly, and rounds once. -/

namespace Sys2Proof.Machine

/-- The sign `s = w[31]` (R151). -/
def signBit (x : F32) : Bool := x.getLsbD 31

/-- The biased exponent `e = w[30:23]` (R151). -/
def expField (x : F32) : Nat := (x.extractLsb' 23 8).toNat

/-- The fraction `f = w[22:0]` (R151). -/
def fracField (x : F32) : Nat := (x.extractLsb' 0 23).toNat

/-- `isnan(a)`: "true exactly for `e = 255, f != 0`" (R155). -/
def isNaN (x : F32) : Bool := expField x == 255 && fracField x != 0

/-- An infinity: `e = 255, f = 0` (R151). -/
def isInf (x : F32) : Bool := expField x == 255 && fracField x == 0

/-- A zero of either sign: `e = 0, f = 0` (R151). -/
def isZero (x : F32) : Bool := expField x == 0 && fracField x == 0

/-- The integer significand of a finite pattern: `f` for a zero or a subnormal, `2^23 + f` for a normal (R151). -/
def significand (x : F32) : Nat := if expField x = 0 then fracField x else 2 ^ 23 + fracField x

/-- The exponent of a finite pattern's significand: its magnitude is `significand x * 2^(scaleExp x)` (R151). -/
def scaleExp (x : F32) : Int := if expField x = 0 then -149 else (expField x : Int) - 150

/-- The pattern with the given sign and the given bits 30:0. -/
def withSign (neg : Bool) (mag : Nat) : F32 := BitVec.ofNat 32 ((if neg then 2 ^ 31 else 0) + mag)

/-- Bits 30:0 of an infinity. -/
def infMag : Nat := 0x7F800000

/-- `m * 2^(-k)` as an integer, rounded to nearest with ties to even. `sticky` says that the exact value lies strictly
between `m * 2^(-k)` and `(m + 1) * 2^(-k)`; it is only used with `0 < k`. -/
def roundShift (m : Nat) (k : Int) (sticky : Bool) : Nat :=
  if k ≤ 0 then m * 2 ^ (-k).toNat
  else
    let d := 2 ^ k.toNat
    let q := m / d
    let r := m % d
    if d < 2 * r ∨ (2 * r = d ∧ (sticky = true ∨ q % 2 = 1)) then q + 1 else q

/-- Bits 30:0 of the binary32 nearest to the magnitude `m * 2^e` (just above it when `sticky`), ties to even (R152).
The unit in the last place is `2^ulp`, never below `2^-149`, so that the subnormal range underflows gradually; a
magnitude that rounds to `2^128` or more becomes an infinity. -/
def roundMag (m : Nat) (e : Int) (sticky : Bool) : Nat :=
  if m = 0 then 0
  else
    let ulp : Int := max (e + (Nat.log2 m : Int) - 23) (-149)
    min ((ulp + 149).toNat * 2 ^ 23 + roundShift m (ulp - e) sticky) infMag

/-- A NaN with the given sign (bit 23) and fraction (bits 22:0); a zero fraction, which would be an infinity, is read as
1, so that exactly the patterns "with `e = 255, f != 0`" arise (R154). -/
def nanOf (bits : BitVec 24) : F32 :=
  let f := bits.toNat % 2 ^ 23
  withSign (bits.getLsbD 23) (infMag + (if f = 0 then 1 else f))

/-- The NaN that an operation returns: its sign and fraction are free (R154). -/
def freeNaN (op : NanSource) (a b : F32) : F32 := nanOf (Config.freeNan op a b)

/-- The signed integer `±significand * 2^(scaleExp - e)`, for `e` at most the operand's exponent. -/
def alignedInt (x : F32) (e : Int) : Int :=
  let m : Int := (significand x * 2 ^ (scaleExp x - e).toNat : Nat)
  if signBit x then -m else m

/-- `fadd` (R152, R153). -/
def fadd (a b : F32) : F32 :=
  if isNaN a || isNaN b then freeNaN .fadd a b
  else if isInf a then (if isInf b && (signBit a != signBit b) then freeNaN .fadd a b else a)
  else if isInf b then b
  else
    let e := min (scaleExp a) (scaleExp b)
    let sum := alignedInt a e + alignedInt b e
    if sum = 0 then withSign (signBit a && signBit b) 0
    else withSign (decide (sum < 0)) (roundMag sum.natAbs e false)

/-- `fmul` (R152, R153). -/
def fmul (a b : F32) : F32 :=
  let s := signBit a != signBit b
  if isNaN a || isNaN b then freeNaN .fmul a b
  else if (isInf a && isZero b) || (isZero a && isInf b) then freeNaN .fmul a b
  else if isInf a || isInf b then withSign s infMag
  else withSign s (roundMag (significand a * significand b) (scaleExp a + scaleExp b) false)

/-- `fdiv` (R152, R153). The dividend is scaled by `2^50`, so that the integer quotient of a non-zero dividend has at
least 26 bits. -/
def fdiv (a b : F32) : F32 :=
  let s := signBit a != signBit b
  if isNaN a || isNaN b then freeNaN .fdiv a b
  else if (isInf a && isInf b) || (isZero a && isZero b) then freeNaN .fdiv a b
  else if isInf a || isZero b then withSign s infMag
  else if isInf b then withSign s 0
  else
    let n := significand a * 2 ^ 50
    let d := significand b
    withSign s (roundMag (n / d) (scaleExp a - scaleExp b - 50) (decide (n % d ≠ 0)))

/-- The integer square root, bit by bit from bit `i - 1` down, starting from the partial root `r`. -/
def isqrtFrom : Nat → Nat → Nat → Nat
  | 0, _, r => r
  | i + 1, n, r =>
    let c := r + 2 ^ i
    isqrtFrom i n (if c * c ≤ n then c else r)

/-- The integer square root of a number below `2^80`. -/
def isqrt (n : Nat) : Nat := isqrtFrom 40 n 0

/-- `fsqrt` (R152, R153). The significand is scaled by `2^52` or `2^53`, whichever leaves an even exponent, so that the
integer root of a non-zero operand has at least 27 bits. -/
def fsqrt (a : F32) : F32 :=
  if isNaN a then freeNaN .fsqrt a a
  else if isZero a then a
  else if signBit a then freeNaN .fsqrt a a
  else if isInf a then a
  else
    let t : Nat := if scaleExp a % 2 = 0 then 52 else 53
    let n := significand a * 2 ^ t
    let r := isqrt n
    withSign false (roundMag r ((scaleExp a - t) / 2) (decide (r * r ≠ n)))

/-- `u2f(n)`: the binary32 nearest to `n`, ties to even (R156). -/
def u2f (n : Nat) : F32 := withSign false (roundMag n 0 false)

/-- `i2f(d)`: the binary32 nearest to the signed integer `d`, ties to even (R157). -/
def i2f (d : Int) : F32 := withSign (decide (d < 0)) (roundMag d.natAbs 0 false)

/-- A non-NaN pattern's place in the order of the extended reals: both zeros are 0, an infinity lies beyond every
finite value (R155). -/
def orderKey (x : F32) : Int :=
  let m : Int := (x.extractLsb' 0 31).toNat
  if signBit x then -m else m

/-- `fgt(a, b)`: neither is a NaN and `a > b` as extended reals (R155). -/
def fgt (a b : F32) : Bool := !isNaN a && !isNaN b && decide (orderKey b < orderKey a)

/-- `flt(a, b)`: neither is a NaN and `a < b` as extended reals (R155). -/
def flt (a b : F32) : Bool := !isNaN a && !isNaN b && decide (orderKey a < orderKey b)

/-- The default record of R150. -/
def defaultNumerics : Numerics where
  fadd := fadd
  fmul := fmul
  fdiv := fdiv
  fsqrt := fsqrt
  u2f := u2f
  i2f := i2f
  fgt := fgt
  flt := flt
  isnan := isNaN

/-- The numerics record of an instance: the value of its configuration field `NUMERICS` (R6, R150). -/
def numericsOf (p : Params) : Numerics :=
  match p.numerics with
  | .ieee754 => defaultNumerics
  | .backend id => Config.backendRecord id

/-- `+0.0` (R164). -/
def fZero : F32 := 0x00000000#32

/-- `1.0` (R164). -/
def fOne : F32 := 0x3F800000#32

/-- `-1.0` (R164). -/
def fNegOne : F32 := 0xBF800000#32

/-- `F_PF_THRESH`, the binary32 nearest to 0.01 (R8). -/
def fPfThresh : F32 := 0x3C23D70A#32

/-- `F_MS_PER_HOUR`, 3 600 000 exactly (R8). -/
def fMsPerHour : F32 := 0x4A5BBA00#32

/-- `clamp1(x)` of R158: a NaN passes through. -/
def clamp1 (N : Numerics) (x : F32) : F32 :=
  if N.isnan x then x
  else if N.flt x fNegOne then fNegOne
  else if N.fgt x fOne then fOne
  else x

end Sys2Proof.Machine
end

