-- ==== Sys2Proof/Machine/Operands.lean ====
section
/-! DEFINITION. How a frame's samples are addressed (spec/20_memory.md R62, R63) and converted to physical units
(spec/42_rms_accumulator.md R170, R171, R176), and which instances are legal (spec/70_reset_and_hazards.md R332). -/

namespace Sys2Proof.Machine

/-- The ranges of R6, outside which no instance exists (R332, U6): `V`, `CT` in 1 .. 255, `ADC_BITS` in 1 .. 16,
`ADC_VREF` finite and above 0, `REF < V`, `CT_PROC_MAX >= 1`, `REPORT_CYCLES >= 1`, `VCT_TOTAL <= FRAME_MAX <= 65535`,
`PF_DEFAULT` in `[-1, 1]`. R332 adds that the rules are defined for any `ADC_VREF`, as the conversions below are
(log entry 7). -/
def paramsLegal (p : Params) : Bool :=
  decide (1 ≤ p.v ∧ p.v ≤ 255) && decide (1 ≤ p.ct ∧ p.ct ≤ 255) && decide (1 ≤ p.adcBits ∧ p.adcBits ≤ 16) &&
  (!isInf p.adcVref && fgt p.adcVref fZero) &&
  decide (p.ref < p.v) && decide (1 ≤ p.ctProcMax) && decide (p.reportCycles ≠ 0#32) &&
  decide (p.vctTotal ≤ p.frameMax ∧ p.frameMax ≤ 65535) &&
  !isNaN p.pfDefault && !flt p.pfDefault fNegOne && !fgt p.pfDefault fOne

/-- Element `i` of a register array. The arrays of a reachable state have one element per channel, so the default is
never read (log entry 13). -/
def lane (xs : List F32) (i : Nat) : F32 := xs.getD i fZero

/-- `MemRead(FRAME, i)` (R62). R63: no index the rules compute leaves `[0, L)`, so the default is never read. -/
def sample (F : List Code) (i : Nat) : Code := F.getD i 0#16

/-- `count(p, L)`: the number of samples of the channel at base position `p` in a frame of length `L` (R63). -/
def count (p : Params) (pos len : Nat) : Nat :=
  if len ≤ pos then 0 else (len - 1 - pos) / p.vctTotal + 1

/-- The position of scan `k`'s sample of the channel at base position `pos`: base plus stride (R63). -/
def position (p : Params) (pos k : Nat) : Nat := pos + k * p.vctTotal

/-- `K_LSB = fdiv(ADC_VREF, u2f(2^ADC_BITS))` (R7, R170). -/
def kLsb (N : Numerics) (p : Params) : F32 := N.fdiv p.adcVref (N.u2f (2 ^ p.adcBits))

/-- `fmul(fmul(u2f(code), K_LSB), cal)`: the conversion of R171 and R176 with the scale `cal` (R161). -/
def convert (N : Numerics) (p : Params) (code : Code) (cal : F32) : F32 :=
  N.fmul (N.fmul (N.u2f code.toNat) (kLsb N p)) cal

/-- `conv_v(code, v)` (R171). -/
def convV (N : Numerics) (s : State) (code : Code) (v : Nat) : F32 := convert N s.params code (lane s.vcal v)

/-- `conv_i(code, c)` (R176). -/
def convI (N : Numerics) (s : State) (code : Code) (c : Nat) : F32 := convert N s.params code (lane s.ical c)

/-- The voltage sample of channel `v` at scan `k`, converted (R174). -/
def voltageAt (N : Numerics) (s : State) (F : List Code) (v k : Nat) : F32 :=
  convV N s (sample F (position s.params v k)) v

/-- The current sample of channel `c` at scan `k`, converted; its frame position is that of channel `V + c` (R63,
R190). -/
def currentAt (N : Numerics) (s : State) (F : List Code) (c k : Nat) : F32 :=
  convI N s (sample F (position s.params (s.params.v + c) k)) c

/-- A sum over the scans `0 .. n-1` in ascending order, from `+0.0`, each term rounded before it is added (R161,
R173). -/
def sumScans (N : Numerics) (n : Nat) (term : Nat → F32) : F32 :=
  (List.range n).foldl (fun acc k => N.fadd acc (term k)) fZero

end Sys2Proof.Machine
end

