-- ==== Sys2Proof/Machine/Ops.lean ====
section
/-! DEFINITION. The shared operations: answering a command, the saturating counters, the two put-overwrite slots, the
stages of PROCESS_FRAME (spec/42 to spec/45), the burst of a `FRAME` command (spec/30_encoding.md R94), the autonomous
step METER, and what is fetched next. The hardware takes no exception: "A model has no trap function to write; it has
the response of each step" (spec/60_exceptions.md R286). -/

namespace Sys2Proof.Machine

/-- `return (code, flags, data)` (R13, R100). -/
def State.answer (s : State) (code : RespCode) (flags : RespFlags) (data : List Word32) : State :=
  { s with response := some ⟨code, flags, data⟩ }

/-- The answer to an illegal word: `ILLEGAL_COMMAND`, no flags, no data, no state change (R96; log entry 8). -/
def State.answerIllegal (s : State) : State := s.answer .illegalCommand {} []

/-- `sat32(x) = min(x, 2^32 - 1)` (R144). -/
def sat32 (x : Nat) : Word32 := BitVec.ofNat 32 (min x (2 ^ 32 - 1))

/-- `x <- sat32(x + 1)`, the increment of a diagnostic counter (R144). -/
def satIncr (x : Word32) : Word32 := sat32 (x.toNat + 1)

/-- Put-overwrite on `fslot` (R76, R122): an unconsumed entry is replaced, counted and indicated. -/
def putFrame (s : State) (e : FrameEntry) : State :=
  { s with
    fslot := some e
    frameDropCount := if s.fslot.isSome then satIncr s.frameDropCount else s.frameDropCount
    faultInd := if s.fslot.isSome then s.faultInd ||| 0b01#2 else s.faultInd }

/-- `PUT_RSLOT` of R237: put-overwrite on `rslot`. -/
def putReport (s : State) (e : ReportEntry) : State :=
  { s with
    rslot := some e
    reportDropCount := if s.rslot.isSome then satIncr s.reportDropCount else s.reportDropCount
    faultInd := if s.rslot.isSome then s.faultInd ||| 0b10#2 else s.faultInd }

/-! ### The stages of PROCESS_FRAME -/

/-- `fsqrt(fdiv(ssq, u2f(n)))` over the `n` terms `x` (R173). -/
def rms (N : Numerics) (n : Nat) (x : Nat → F32) : F32 :=
  N.fsqrt (N.fdiv (sumScans N n fun k => N.fmul (x k) (x k)) (N.u2f n))

/-- `VRMS(F, L, v)` of R174. -/
def vrms (N : Numerics) (s : State) (F : List Code) (v : Nat) : F32 :=
  rms N (count s.params v F.length) (voltageAt N s F v)

/-- The RMS part of `IPOW(F, L, c)` (R190, R177). -/
def irms (N : Numerics) (s : State) (F : List Code) (c : Nat) : F32 :=
  rms N (count s.params (s.params.v + c) F.length) (currentAt N s F c)

/-- The power part of `IPOW(F, L, c)`: the mean product with the reference voltage channel at the same scan (R190,
R191). -/
def realPower (N : Numerics) (s : State) (F : List Code) (c : Nat) : F32 :=
  let n := count s.params (s.params.v + c) F.length
  N.fdiv (sumScans N n fun k => N.fmul (voltageAt N s F s.params.ref k) (currentAt N s F c k)) (N.u2f n)

/-- `S = fmul(vrms[REF], irms)` (R192). -/
def apparentPower (N : Numerics) (s : State) (F : List Code) (c : Nat) : F32 :=
  N.fmul (vrms N s F s.params.ref) (irms N s F c)

/-- Does the power-factor calculator take the computed branch? (R195) -/
def pfComputed (N : Numerics) (S : F32) : Bool := N.fgt S fPfThresh

/-- The power factor that `PF(c, P, S)` returns, `hold` being `pf_hold[c]` (R195 to R197). -/
def powerFactor (N : Numerics) (hold P S : F32) : F32 :=
  if pfComputed N S then clamp1 N (N.fdiv P S) else clamp1 N hold

/-- `pf_hold[c]` after `PF(c, P, S)` (R195). -/
def pfHoldAfter (N : Numerics) (hold P S : F32) : F32 :=
  if pfComputed N S then clamp1 N (N.fdiv P S) else hold

/-- The outcome of `ELAPSED(ts)` (R210): no predecessor, a difference at or below 0, or the elapsed hours. -/
inductive Elapsed where
  | first
  | nonMonotonic
  | hours (eh : F32)
  deriving DecidableEq, Repr

/-- `err = ClockNonMonotonic` (R210, R228). -/
def Elapsed.isNonMonotonic : Elapsed → Bool
  | .first => false
  | .nonMonotonic => true
  | .hours _ => false

/-- The exact signed difference of two timestamps (R145). -/
def delta (ts last : Timestamp) : Int := (ts.toNat : Int) - (last.toNat : Int)

/-- `ELAPSED(ts)` (R210). -/
def elapsed (N : Numerics) (s : State) (ts : Timestamp) : Elapsed :=
  if s.tsValid then
    (if delta ts s.lastTimestampMs ≤ 0 then .nonMonotonic
     else .hours (N.fdiv (N.i2f (delta ts s.lastTimestampMs)) fMsPerHour))
  else .first

/-- `energy[c]` after `ENERGY(c, P, eh)`, or unchanged when `ELAPSED` said to skip (R213, R228). -/
def energyAfter (N : Numerics) (el : Elapsed) (energy P : F32) : F32 :=
  match el with
  | .first => energy
  | .nonMonotonic => energy
  | .hours eh => if N.fgt eh fZero then N.fadd energy (N.fmul P eh) else energy

/-- What PROCESS_FRAME computes for one current channel: its report fields, and `pf_hold[c]` and `energy[c]` after the
frame. -/
structure ChannelResult where
  irms : F32
  realPower : F32
  apparentPower : F32
  powerFactor : F32
  hold : F32
  energy : F32
  deriving DecidableEq, Repr

/-- One turn of the channel loops of R228: a processed channel, or an unprocessed one (R178). -/
def channelResult (N : Numerics) (s : State) (F : List Code) (ts : Timestamp) (c : Nat) : ChannelResult :=
  let hold := lane s.pfHold c
  let energy := lane s.energy c
  if c < s.params.ctActive then
    let P := realPower N s F c
    let S := apparentPower N s F c
    { irms := irms N s F c
      realPower := P
      apparentPower := S
      powerFactor := powerFactor N hold P S
      hold := pfHoldAfter N hold P S
      energy := energyAfter N (elapsed N s ts) energy P }
  else
    { irms := fZero
      realPower := fZero
      apparentPower := fZero
      powerFactor := hold
      hold := hold
      energy := energy }

/-- The results of all `CT` current channels, ascending. The lanes are independent (R162), so each is computed from the
state before the frame. -/
def channelResults (N : Numerics) (s : State) (F : List Code) (ts : Timestamp) : List ChannelResult :=
  (List.range s.params.ct).map (channelResult N s F ts)

/-- `REPORT` of R236, `energy_wh` being the accumulators after this frame's update. -/
def assembleReport (N : Numerics) (s : State) (F : List Code) (ts : Timestamp) : Report :=
  let ch := channelResults N s F ts
  { voltageRms := (List.range s.params.v).map (vrms N s F)
    currentRms := ch.map (·.irms)
    realPower := ch.map (·.realPower)
    apparentPower := ch.map (·.apparentPower)
    powerFactor := ch.map (·.powerFactor)
    frequency := s.mainsFrequency
    energyWh := ch.map (·.energy) }

/-- Does the next accepted frame reach the end of the report cycle? (R234) -/
def emits (s : State) : Bool := s.framesSinceReport + 1#32 == s.reportCycles

/-- Stages 2 to 4 of R228, and the counter of stage 5: the engine's registers after an accepted frame. -/
def updateEngine (N : Numerics) (s : State) (F : List Code) (ts : Timestamp) : State :=
  let ch := channelResults N s F ts
  { s with
    nmCount := if (elapsed N s ts).isNonMonotonic then satIncr s.nmCount else s.nmCount
    pfHold := ch.map (·.hold)
    energy := ch.map (·.energy)
    lastTimestampMs := ts
    tsValid := true
    framesSinceReport := if emits s then 0#32 else s.framesSinceReport + 1#32 }

/-- What PROCESS_FRAME leaves and answers (R225). -/
structure FrameOutcome where
  state : State
  code : RespCode
  flags : RespFlags
  deriving DecidableEq, Repr

/-- `PROCESS_FRAME(F, L, ts)` for an accepted frame (R228). -/
def acceptFrame (N : Numerics) (s : State) (F : List Code) (ts : Timestamp) : FrameOutcome :=
  let cnm := (elapsed N s ts).isNonMonotonic
  let s' := updateEngine N s F ts
  { state := if emits s then putReport s' ⟨assembleReport N s F ts, ts⟩ else s'
    code := if cnm then .clockNonMonotonic else .ok
    flags := { rpt := emits s, cnm := cnm, drop := emits s && s.rslot.isSome } }

/-- `PROCESS_FRAME(F, L, ts)` (R225 to R228): the length precondition is the first thing tested. -/
def processFrame (N : Numerics) (s : State) (F : List Code) (ts : Timestamp) : FrameOutcome :=
  if F.length < s.params.vctTotal then { state := s, code := .insufficientSamples, flags := {} }
  else acceptFrame N s F ts

/-! ### The burst of a FRAME command -/

/-- `FRAME(len, ts, words)` once its last word is in: `ILLEGAL_COMMAND` if some data word was malformed, else
PROCESS_FRAME on the codes (R94, R230). -/
def finishFrame (s : State) (b : Burst) : State :=
  if b.malformed then s.answerIllegal
  else
    let o := processFrame (numericsOf s.params) s b.codes b.ts
    o.state.answer o.code o.flags []

/-- A legal header opens the burst of `len` data words; with `len = 0` the command is complete (R94). -/
def openBurst (s : State) (len : Nat) (ts : Timestamp) : State :=
  if len = 0 then finishFrame s ⟨0, ts, [], false⟩
  else { s with burst := some ⟨len, ts, [], false⟩, response := none }

/-- The next data word of the burst `b`: the code of a well-formed `FDAT` word, or `none` for any other word. "all
`len` words are still consumed", and the one response comes after the last (R94). -/
def takeDataWord (s : State) (b : Burst) (d : Option Code) : State :=
  let b' : Burst := ⟨b.remaining - 1, b.ts, b.codes ++ d.toList, b.malformed || d.isNone⟩
  if b'.remaining = 0 then finishFrame { s with burst := none } b'
  else { s with burst := some b', response := none }

/-- A word that the decoder rejects: inside a burst a malformed data word (R94), elsewhere an illegal command (R96). -/
def rejectWord (s : State) : State :=
  match s.burst with
  | none => s.answerIllegal
  | some b => takeDataWord s b none

/-! ### The METER step and the schedule -/

/-- `METER()` of R232: take the entry of `fslot` and process it; there is no response. Not enabled when `fslot` is
empty: nothing happens (log entry 19). -/
def meterTurn (s : State) : State :=
  match s.fslot with
  | none => s
  | some e =>
    { (processFrame (numericsOf s.params) { s with fslot := none } e.frame e.ts).state with response := none }

/-- Is the next word at the port an `OUTPUT` step, that is `POPR` outside a burst? (R290, R292) Only its opcode is
looked at, so an illegal word with the opcode of `POPR` (a reserved field that is not 0) counts as an `OUTPUT` step too:
the spec gives an illegal word no tier (log entry 6, DESIGN CHOICE). -/
def outputWaits (s : State) : Bool :=
  match s.port with
  | [] => false
  | w :: _ => s.burst.isNone && fieldOp w == 0x08

/-- Whose turn it is: what the schedule says. With no turn left in the schedule, the order of R292: a waiting command
word, but `METER` first when it is enabled and a word with the opcode of the Output tier's `POPR` is next; and `METER`
when no word waits (log entries 5 and 6, DESIGN CHOICE). -/
def nextTurn (s : State) : Turn :=
  match s.turns with
  | t :: _ => t
  | [] => if s.port.isEmpty || (s.fslot.isSome && outputWaits s) then .meter else .command

/-- The turn is used up. -/
def useTurn (s : State) : State := { s with turns := s.turns.tail }

/-- The word at the head of the command port (R90: "presented to the hardware one at a time and in order"). -/
def portWord (s : State) : Option CommandWord := s.port.head?

/-- That word is consumed. -/
def consumeWord (s : State) : State := { s with port := s.port.tail }

/-- The instruction that the word stands for in this state (R94: inside a burst only a data word). -/
def decodeWord (s : State) (w : CommandWord) : Except DecodeError Instr := decodeIn s.burst.isSome s.params w

/-- The state in which the word `w` is the next to run: it is put before the waiting words, and the turn is the command
port's. A data word needs the burst it is part of (R94): where none is open, the burst of a two-word frame is opened for
it; for any other word no burst is open (log entry 14). -/
def presentWord (s : State) (w : CommandWord) : State :=
  { s with
    port := w :: s.port
    turns := .command :: s.turns
    burst :=
      match decode s.params w, s.burst with
      | .ok (.fdat _), some b => some b
      | .ok (.fdat _), none => some ⟨2, 0#32, [], false⟩
      | _, _ => none }

end Sys2Proof.Machine
end

