-- ==== Sys2Proof/Machine/Configure.lean ====
section
/-! DEFINITION. The calibration and energy commands `SETV`, `SETI`, `RSTE`, `GETE`
(spec/46_config_and_readout.md). -/

namespace Sys2Proof.Machine

/-- `SETV ch, scale` (R252, R253). -/
def execSetv (ch : BitVec 8) (scale : F32) (s : State) : Host.Outcome State Fault Refusal :=
  if s.params.v ≤ ch.toNat then .next (s.answer .invalidChannelIndex {} [])
  else .next (({ s with vcal := s.vcal.set ch.toNat scale } : State).answer .ok {} [])

/-- `SETI ch, scale` (R254, R255): the bound is `CT`, not `CT_ACTIVE`. -/
def execSeti (ch : BitVec 8) (scale : F32) (s : State) : Host.Outcome State Fault Refusal :=
  if s.params.ct ≤ ch.toNat then .next (s.answer .invalidChannelIndex {} [])
  else .next (({ s with ical := s.ical.set ch.toNat scale } : State).answer .ok {} [])

/-- `RSTE` (R256): every accumulator, processed or not. -/
def execRste (s : State) : Host.Outcome State Fault Refusal :=
  .next (({ s with energy := s.energy.map fun _ => fZero } : State).answer .ok {} [])

/-- `GETE` (R258): the bit patterns of all accumulators, channel 0 first. -/
def execGete (s : State) : Host.Outcome State Fault Refusal :=
  .next (s.answer .ok {} s.energy)

end Sys2Proof.Machine
end

