-- ==== Sys2Proof/Machine/Frame.lean ====
section
/-! DEFINITION. The `FRAME` command: its header word and its `FDAT` data words (spec/30_encoding.md R94,
spec/45_process_frame.md R230). -/

namespace Sys2Proof.Machine

/-- The header word of `FRAME` (R94, R230). -/
def execFrame (len : BitVec 16) (ts : Timestamp) (s : State) : Host.Outcome State Fault Refusal :=
  .next (openBurst s len.toNat ts)

/-- The data word `FDAT` (R94): the next code of the open burst; outside a burst it is illegal (R96 b). -/
def execFdat (code : Code) (s : State) : Host.Outcome State Fault Refusal :=
  match s.burst with
  | none => .next s.answerIllegal
  | some b => .next (takeDataWord s b (some code))

end Sys2Proof.Machine
end

