-- ==== Sys2Proof/Machine/Readout.lean ====
section
/-! DEFINITION. `NOP`, the report read-out `POPR` and the diagnostics read-out `DIAG`
(spec/46_config_and_readout.md). -/

namespace Sys2Proof.Machine

/-- `NOP` (R250). -/
def execNop (s : State) : Host.Outcome State Fault Refusal :=
  .next (s.answer .ok {} [])

/-- `POPR` (R260): a destructive read; the record's words, then the timestamp. -/
def execPopr (s : State) : Host.Outcome State Fault Refusal :=
  match s.rslot with
  | none => .next (s.answer .empty {} [])
  | some e => .next (({ s with rslot := none } : State).answer .ok {} (e.report.words ++ [e.ts]))

/-- `DIAG` (R262). -/
def execDiag (s : State) : Host.Outcome State Fault Refusal :=
  .next (s.answer .ok {}
    [s.overrunCount, s.frameDropCount, s.reportDropCount, s.nmCount, s.faultInd.setWidth 32])

end Sys2Proof.Machine
end

