-- ==== Sys2Proof/Machine/Sequencer.lean ====
section
/-! DEFINITION. The frame sequencer's commands, `PUSH` and `OVRN` (spec/40_frame_sequencer.md). -/

namespace Sys2Proof.Machine

/-- `PUSH code, ts` (R120 to R124). A state with `asm_fill >= VCT_TOTAL` is unreachable and faults (R123; log entry 11,
safe). -/
def execPush (code : Code) (ts : Timestamp) (s : State) : Host.Outcome State Fault Refusal :=
  if s.params.vctTotal ≤ s.asmFill then .fault .assemblerOverflow
  else
    let s1 := { s with abuf := s.abuf.set s.asmFill code }
    if s.asmFill + 1 < s.params.vctTotal then
      .next (({ s1 with asmFill := s.asmFill + 1 } : State).answer .ok {} [])
    else
      .next (({ putFrame s1 ⟨s1.abuf, ts⟩ with asmFill := 0 } : State).answer .ok
        { fdone := true, drop := s.fslot.isSome } [])

/-- `OVRN` (R126). -/
def execOvrn (s : State) : Host.Outcome State Fault Refusal :=
  .next (({ s with overrunCount := satIncr s.overrunCount } : State).answer .ok {} [])

end Sys2Proof.Machine
end

