-- ==== Sys2Proof/Machine/Dispatch.lean ====
section
/-! DEFINITION. One arm per command word kind. -/

namespace Sys2Proof.Machine

def exec (i : Instr) (s : State) : Host.Outcome State Fault Refusal :=
  match i with
  | .nop => Sys2Proof.Machine.execNop s
  | .push code ts => Sys2Proof.Machine.execPush code ts s
  | .frame len ts => Sys2Proof.Machine.execFrame len ts s
  | .fdat code => Sys2Proof.Machine.execFdat code s
  | .setv ch scale => Sys2Proof.Machine.execSetv ch scale s
  | .seti ch scale => Sys2Proof.Machine.execSeti ch scale s
  | .rste => Sys2Proof.Machine.execRste s
  | .gete => Sys2Proof.Machine.execGete s
  | .popr => Sys2Proof.Machine.execPopr s
  | .ovrn => Sys2Proof.Machine.execOvrn s
  | .diag => Sys2Proof.Machine.execDiag s

end Sys2Proof.Machine
end

