-- ==== Sys2Proof/Machine/Step.lean ====
section
/-! DEFINITION. One step of the machine: one atomic step of one agent (spec/00_scope.md R10), or nothing when no agent
has work (spec/60_exceptions.md R294, Idle). -/

namespace Sys2Proof.Machine

/-- A turn of the command port: the word at its head is consumed, decoded in its context and run; a word that the
decoder rejects is answered (R90, R94, R96). With no word at the port nothing happens. -/
def commandTurn (s : State) : Host.Outcome State Fault Refusal :=
  match portWord s with
  | none => .next s
  | some w =>
    match decodeWord s w with
    | .ok i => exec i (consumeWord s)
    | .error _ => .next (rejectWord (consumeWord s))

/-- One step. An instance with illegal parameters is refused (R332, U6). -/
def step (s : State) : Host.Outcome State Fault Refusal :=
  if paramsLegal s.params then
    match nextTurn s with
    | .command => commandTurn (useTurn s)
    | .meter => .next (meterTurn (useTurn s))
  else .refused .illegalInstance

/-- `s` with the word whose `nbits` low bits are those of `w` as the next word to be taken. -/
def State.withFetchWord (s : State) (nbits w : Nat) : State := presentWord s (tableWord nbits w)

end Sys2Proof.Machine
end

