-- ==== Sys2Proof/Safety.lean ====
section
/-! DEFINITION. The words claims are stated in: the invariants of a reachable state, what an illegal word is (R96),
sequences of pushes and of frames, the literal loops of R174 and R190, and what a correctly rounded binary32 result is
(R152). -/

namespace Sys2Proof.Machine

/-! ### Values of patterns -/

/-- Neither an infinity nor a NaN (R151). -/
def isFinite (x : F32) : Bool := expField x != 255

/-- The value of a finite pattern: `(-1)^s * f * 2^-149`, or `(-1)^s * (2^23 + f) * 2^(e-150)` (R151). -/
def value (x : F32) : ℚ :=
  (if signBit x then -1 else 1) * (significand x : ℚ) * (2 : ℚ) ^ scaleExp x

/-! ### Invariants -/

/-- Every code is in `[0, 2^ADC_BITS)` (R14, R98). -/
def codesInRange (p : Params) (codes : List Code) : Prop := ∀ c ∈ codes, codeInRange p c = true

/-- The record of R104: the arrays of a report have one element per channel. -/
structure ReportShape (p : Params) (r : Report) : Prop where
  voltageRms : r.voltageRms.length = p.v
  currentRms : r.currentRms.length = p.ct
  realPower : r.realPower.length = p.ct
  apparentPower : r.apparentPower.length = p.ct
  powerFactor : r.powerFactor.length = p.ct
  energyWh : r.energyWh.length = p.ct

/-- The invariant of R20, R28, R31, R32, R35 to R39: the instance is legal, every array has its length, every stored
code is in range, the sequencer and the report-cycle counter are below their bounds, the registers that only reset
writes hold their reset values, and a burst in transit still waits for a word. -/
structure Shape (s : State) : Prop where
  legal : paramsLegal s.params = true
  vcal : s.vcal.length = s.params.v
  ical : s.ical.length = s.params.ct
  phaseCal : s.phaseCal = List.replicate s.params.ct 0#32
  energy : s.energy.length = s.params.ct
  pfHold : s.pfHold.length = s.params.ct
  reportCycles : s.reportCycles = s.params.reportCycles
  mainsFrequency : s.mainsFrequency = s.params.mainsFrequency
  framesSinceReport : s.framesSinceReport.toNat < s.reportCycles.toNat
  asmFill : s.asmFill < s.params.vctTotal
  abuf : s.abuf.length = s.params.vctTotal
  abufCodes : codesInRange s.params s.abuf
  fslot : ∀ e, s.fslot = some e → e.frame.length = s.params.vctTotal ∧ codesInRange s.params e.frame
  rslot : ∀ e, s.rslot = some e → ReportShape s.params e.report
  burst : ∀ b, s.burst = some b →
    1 ≤ b.remaining ∧ b.codes.length + b.remaining ≤ s.params.frameMax ∧ codesInRange s.params b.codes

/-- A power factor is a NaN or lies in `[-1, 1]` (R158, R199, U3). -/
def pfInRange (x : F32) : Prop :=
  isNaN x = true ∨ (flt x 0xBF800000#32 = false ∧ fgt x 0x3F800000#32 = false)

/-- Every held power factor is in range (R197, R199). -/
def HoldsInRange (s : State) : Prop := ∀ x ∈ s.pfHold, pfInRange x

/-- A finite number in `[-1, 1]` (R199). -/
def pfInUnit (x : F32) : Prop := isFinite x = true ∧ -1 ≤ value x ∧ value x ≤ 1

/-- Every power factor of the state meets `Q`: the held ones, and those of the report that waits to be read (R33, R104,
R199). -/
def PowerFactorsAll (Q : F32 → Prop) (s : State) : Prop :=
  (∀ x ∈ s.pfHold, Q x) ∧ ∀ e, s.rslot = some e → ∀ x ∈ e.report.powerFactor, Q x

/-- The premise of R199 for the frame `F`, in the default record: every scale factor that a power factor uses is finite,
and no value on the way to a real power overflows to an infinity. The values on the way to an RMS or to an apparent
power are not needed, so that this premise is weaker than the rule's "no intermediate value overflows". -/
structure NoOverflow (s : State) (F : List Code) : Prop where
  /-- `K_LSB` -/
  codeStep : isFinite (kLsb defaultNumerics s.params) = true
  /-- the scale of the reference voltage channel -/
  voltageScale : isFinite (lane s.vcal s.params.ref) = true
  /-- the scales of the processed current channels -/
  currentScale : ∀ c < s.params.ctActive, isFinite (lane s.ical c) = true
  /-- every sample of the reference voltage channel that a pair uses, before and after its scale -/
  voltages : ∀ c < s.params.ctActive, ∀ k < count s.params (s.params.v + c) F.length,
    isInf (fmul (u2f (sample F (position s.params s.params.ref k)).toNat) (kLsb defaultNumerics s.params)) = false ∧
    isInf (voltageAt defaultNumerics s F s.params.ref k) = false
  /-- every sample of a processed current channel, before and after its scale -/
  currents : ∀ c < s.params.ctActive, ∀ k < count s.params (s.params.v + c) F.length,
    isInf (fmul (u2f (sample F (position s.params (s.params.v + c) k)).toNat) (kLsb defaultNumerics s.params)) = false ∧
    isInf (currentAt defaultNumerics s F c k) = false
  /-- every product of a pair -/
  products : ∀ c < s.params.ctActive, ∀ k < count s.params (s.params.v + c) F.length,
    isInf (fmul (voltageAt defaultNumerics s F s.params.ref k) (currentAt defaultNumerics s F c k)) = false
  /-- every partial sum of the products -/
  sums : ∀ c < s.params.ctActive, ∀ m ≤ count s.params (s.params.v + c) F.length,
    isInf (sumScans defaultNumerics m fun k =>
      fmul (voltageAt defaultNumerics s F s.params.ref k) (currentAt defaultNumerics s F c k)) = false

/-- The frame that the next step hands to PROCESS_FRAME, if any: the entry of `fslot` on a METER turn (R232), or the
codes of the open burst with the last well-formed data word (R94). -/
def stepFrame (s : State) : Option (List Code) :=
  match nextTurn s, s.burst, s.port with
  | .meter, _, _ => s.fslot.map (·.frame)
  | .command, some b, w :: _ =>
    match decodeIn true s.params w with
    | .ok (.fdat code) => if b.remaining ≤ 1 ∧ b.malformed = false then some (b.codes ++ [code]) else none
    | _ => none
  | .command, _, _ => none

/-- R178, R33: the lanes `CT_ACTIVE <= c < CT` hold `+0.0` watt-hours and `PF_DEFAULT`. -/
def IdleLanes (s : State) : Prop :=
  ∀ c, s.params.ctActive ≤ c → c < s.params.ct → lane s.energy c = 0x00000000#32 ∧ lane s.pfHold c = s.params.pfDefault

/-- R44 with R41, R42: a sticky bit is set exactly when its drop counter is not 0. -/
def DropsIndicated (s : State) : Prop :=
  (s.faultInd.getLsbD 0 = true ↔ s.frameDropCount ≠ 0#32) ∧
  (s.faultInd.getLsbD 1 = true ↔ s.reportDropCount ≠ 0#32)

/-! ### Words and sequences of commands -/

/-- R91, R95: some field that the word's format marks 0 is not 0. -/
def reservedNonZero (w : CommandWord) : Prop :=
  let op := (fieldOp w).toNat
  ((op = 0x00 ∨ (0x06 ≤ op ∧ op ≤ 0x0A)) ∧ ¬(fieldCh w = 0 ∧ fieldAux w = 0 ∧ fieldData w = 0)) ∨
  ((op = 0x01 ∨ op = 0x02) ∧ fieldCh w ≠ 0) ∨
  (op = 0x03 ∧ ¬(fieldCh w = 0 ∧ fieldData w = 0)) ∨
  ((op = 0x04 ∨ op = 0x05) ∧ fieldAux w ≠ 0)

/-- R96 a to e: the word is illegal where no burst is open. -/
def illegalWord (p : Params) (w : CommandWord) : Prop :=
  0x0B ≤ (fieldOp w).toNat ∨ fieldOp w = 0x03 ∨ reservedNonZero w ∨
  (fieldOp w = 0x01 ∧ 2 ^ p.adcBits ≤ (fieldAux w).toNat) ∨
  (fieldOp w = 0x02 ∧ p.frameMax < (fieldAux w).toNat)

/-- R94: the word is a well-formed `FDAT` word. -/
def wellFormedData (p : Params) (w : CommandWord) : Prop :=
  fieldOp w = 0x03 ∧ fieldCh w = 0 ∧ fieldData w = 0 ∧ (fieldAux w).toNat < 2 ^ p.adcBits

/-- The outcome of the commands `is` run one after another, each as `exec` runs it. -/
def execAll : List Instr → State → Host.Outcome State Fault Refusal
  | [], s => .next s
  | i :: rest, s =>
    match exec i s with
    | .next t => execAll rest t
    | .fault r => .fault r
    | .refused r => .refused r

/-- The `PUSH` commands of the samples `xs` (a code and a timestamp each), as `SCAN` expands (R107). -/
def pushes (xs : List (Code × Timestamp)) : List Instr := xs.map fun x => .push x.1 x.2

/-- PROCESS_FRAME on one frame after another, counting the reports emitted (R235). -/
def processAll (N : Numerics) : List (List Code × Timestamp) → State → State × Nat
  | [], s => (s, 0)
  | f :: rest, s =>
    let o := processFrame N s f.1 f.2
    let r := processAll N rest o.state
    (r.1, r.2 + if o.flags.rpt then 1 else 0)

/-! ### The loops of R174 and R190, as written -/

/-- The conversion of R170, R171 and R176, written out: the code times `ADC_VREF / 2^ADC_BITS`, times the scale, each
operation rounded by itself. -/
def convertedCode (N : Numerics) (p : Params) (code : Code) (cal : F32) : F32 :=
  N.fmul (N.fmul (N.u2f code.toNat) (N.fdiv p.adcVref (N.u2f (2 ^ p.adcBits)))) cal

/-- `while v + k*VCT_TOTAL < L` of R174 from scan `k`, for at most `fuel` turns: `s`, `n`. -/
def vrmsLoop (N : Numerics) (st : State) (F : List Code) (v : Nat) : Nat → Nat → F32 → Nat → F32 × Nat
  | 0, _, s, n => (s, n)
  | fuel + 1, k, s, n =>
    if v + k * (st.params.v + st.params.ct) < F.length then
      let x := convertedCode N st.params (F.getD (v + k * (st.params.v + st.params.ct)) 0#16) (st.vcal.getD v 0#32)
      vrmsLoop N st F v fuel (k + 1) (N.fadd s (N.fmul x x)) (n + 1)
    else (s, n)

/-- `while V + c + k*VCT_TOTAL < L` of R190 from scan `k`, for at most `fuel` turns: `si`, `sp`, `n`. -/
def ipowLoop (N : Numerics) (st : State) (F : List Code) (c : Nat) :
    Nat → Nat → F32 → F32 → Nat → F32 × F32 × Nat
  | 0, _, si, sp, n => (si, sp, n)
  | fuel + 1, k, si, sp, n =>
    if st.params.v + c + k * (st.params.v + st.params.ct) < F.length then
      let i := convertedCode N st.params (F.getD (st.params.v + c + k * (st.params.v + st.params.ct)) 0#16)
        (st.ical.getD c 0#32)
      let u := convertedCode N st.params (F.getD (st.params.ref + k * (st.params.v + st.params.ct)) 0#16)
        (st.vcal.getD st.params.ref 0#32)
      ipowLoop N st F c fuel (k + 1) (N.fadd si (N.fmul i i)) (N.fadd sp (N.fmul u i)) (n + 1)
    else (si, sp, n)

/-! ### Correct rounding -/

/-- The least magnitude that rounds to an infinity: half a unit in the last place above the largest finite value,
`(2^24 - 1/2) * 2^104` (R152). -/
def overflowBound : ℚ := (2 ^ 24 - 1 / 2) * 2 ^ 104

/-- `r` is the correctly rounded binary32 of the real `x`: an infinity of the sign of `x` from the overflow bound on;
otherwise a finite value nearest to `x`, and, where another finite value is as near, the one whose last fraction bit
is 0 (R152). -/
def RoundsTo (x : ℝ) (r : F32) : Prop :=
  if (overflowBound : ℝ) ≤ |x| then r = withSign (decide (x < 0)) infMag
  else isFinite r = true ∧ ∀ c : F32, isFinite c = true →
    |x - (value r : ℝ)| ≤ |x - (value c : ℝ)| ∧
    (|x - (value r : ℝ)| = |x - (value c : ℝ)| → value c ≠ value r → r.getLsbD 0 = false)

end Sys2Proof.Machine
end

