-- ==== Sys2Proof/Certificates/Slice0/Obligations.lean ====
section
/-! DEFINITION. The statements for the provers. A statement whose docstring says "model's choice" rests on the log entry
it names; one whose docstring says "the spec's inference" states a sentence that spec/ itself marks as derived from
other rules; every other one formalises the rules of spec/ it names. -/

open Sys2Proof Sys2Proof.Machine

/-! ### Words -/

/-- R91 to R93: every well-formed instruction is read back from its word, with every operand at every value. -/
def Obligations.DecodeEncodeRoundTrip : Prop :=
  ∀ (p : Params) (i : Instr), i.wellFormed p = true → decode p (encode i) = .ok i

/-- R93, R95, R96: a word that decodes is the word of the instruction it decodes to, so that no reserved bit is
dropped, and every word that is not illegal decodes. -/
def Obligations.EncodeDecodeRoundTrip : Prop :=
  ∀ (p : Params) (w : CommandWord),
    (∀ i, decode p w = .ok i → i.wellFormed p = true ∧ encode i = w) ∧
    (¬illegalWord p w → ∃ i, decode p w = .ok i)

/-- The worked encodings of R108 (the spec's inference from R90 to R93), one word for each other row of R92, and three
illegal words (R95, R96, R98), read on the reference instance (model's choice, log entry 2). -/
def Obligations.WordsOfTheSpecDecode : Prop :=
  decode Params.reference 0x0000000000000000#64 = .ok .nop ∧
  decode Params.reference 0x01000400000003E8#64 = .ok (.push 1024#16 1000#32) ∧
  decode Params.reference 0x01000FFFFFFFFFFF#64 = .ok (.push 4095#16 4294967295#32) ∧
  decode Params.reference 0x02000003000003E8#64 = .ok (.frame 3#16 1000#32) ∧
  decode Params.reference 0x0300080000000000#64 = .ok (.fdat 2048#16) ∧
  decode Params.reference 0x0400000043660000#64 = .ok (.setv 0#8 0x43660000#32) ∧
  decode Params.reference 0x05010000BF800000#64 = .ok (.seti 1#8 0xBF800000#32) ∧
  decode Params.reference 0x0600000000000000#64 = .ok .rste ∧
  decode Params.reference 0x0700000000000000#64 = .ok .gete ∧
  decode Params.reference 0x0800000000000000#64 = .ok .popr ∧
  decode Params.reference 0x0900000000000000#64 = .ok .ovrn ∧
  decode Params.reference 0x0A00000000000000#64 = .ok .diag ∧
  decode Params.reference 0x0B00000000000000#64 = .error .unknownOpcode ∧
  decode Params.reference 0x0600000000000001#64 = .error .reservedField ∧
  decode Params.reference 0x0100100000000000#64 = .error .codeOutOfRange

/-- R94: inside a burst a word is a data word or nothing, "whatever their `op` field says". -/
def Obligations.DataWordsInsideBurst : Prop :=
  ∀ (p : Params) (w : CommandWord),
    (wellFormedData p w → decodeIn true p w = .ok (.fdat (fieldAux w))) ∧
    (¬wellFormedData p w → decodeIn true p w = .error .malformedDataWord)

/-- R100, R101, R102: the four fields of the status word, for every response, and every response code's number. -/
def Obligations.StatusWordLayout : Prop :=
  (RespCode.ok.bits = 0#4 ∧ RespCode.insufficientSamples.bits = 1#4 ∧ RespCode.invalidChannelIndex.bits = 2#4 ∧
    RespCode.sampleOverrun.bits = 3#4 ∧ RespCode.clockNonMonotonic.bits = 4#4 ∧ RespCode.empty.bits = 5#4 ∧
    RespCode.illegalCommand.bits = 15#4) ∧
  ∀ r : Response,
    r.statusWord.extractLsb' 0 4 = r.code.bits ∧
    (r.statusWord.getLsbD 4 = r.flags.rpt ∧ r.statusWord.getLsbD 5 = r.flags.cnm ∧
      r.statusWord.getLsbD 6 = r.flags.fdone ∧ r.statusWord.getLsbD 7 = r.flags.drop) ∧
    r.statusWord.extractLsb' 8 8 = 0#8 ∧
    r.statusWord.extractLsb' 16 16 = BitVec.ofNat 16 r.data.length

/-! ### The step -/

/-- A step runs the decoded instruction: on the command port's turn (model's choice, log entry 5), the word at the
port is consumed with its turn, and what `exec` answers there is what the step answers. -/
def Obligations.StepRunsDecodedInstruction : Prop :=
  ∀ (s : State) (w : CommandWord) (rest : List CommandWord) (i : Instr),
    paramsLegal s.params = true → nextTurn s = .command → s.port = w :: rest →
    decodeIn s.burst.isSome s.params w = .ok i →
    step s = exec i { s with port := rest, turns := s.turns.tail }

/-- R96: an illegal word outside a burst is consumed, changes no register, and answers `ILLEGAL_COMMAND` with no flags
and no data. That the model answers where R96 lets a model refuse is the model's choice, log entry 8. -/
def Obligations.IllegalWordAnsweredWithoutEffect : Prop :=
  ∀ (s : State) (w : CommandWord) (rest : List CommandWord),
    paramsLegal s.params = true → nextTurn s = .command → s.port = w :: rest → s.burst = none →
    illegalWord s.params w →
    step s = .next { s with port := rest, turns := s.turns.tail, response := some ⟨.illegalCommand, {}, []⟩ }

/-- The ranges of R6, outside which no instance exists (R332): which instances are legal; and the machine refuses
every other (U6). That an `ADC_VREF` outside its range of R6 is refused, although R332 says that the rules are defined
for any, is the model's reading, log entry 7 (DEDUCED). -/
def Obligations.LegalInstancesAreThoseOfR332 : Prop :=
  (∀ p : Params, paramsLegal p = true ↔
    (1 ≤ p.v ∧ p.v ≤ 255) ∧ (1 ≤ p.ct ∧ p.ct ≤ 255) ∧ (1 ≤ p.adcBits ∧ p.adcBits ≤ 16) ∧ p.ref < p.v ∧
    (isFinite p.adcVref = true ∧ 0 < value p.adcVref) ∧ 1 ≤ p.ctProcMax ∧ 1 ≤ p.reportCycles.toNat ∧
    (p.v + p.ct ≤ p.frameMax ∧ p.frameMax ≤ 65535) ∧
    isFinite p.pfDefault = true ∧ -1 ≤ value p.pfDefault ∧ value p.pfDefault ≤ 1) ∧
  (∀ s : State, paramsLegal s.params = false → step s = .refused .illegalInstance)

/-! ### The frame sequencer -/

/-- R120: a sample that does not complete the scan. -/
def Obligations.PushStoresSample : Prop :=
  ∀ (code : Code) (ts : Timestamp) (s : State), s.asmFill + 1 < s.params.v + s.params.ct →
    exec (.push code ts) s = .next { s with
      abuf := s.abuf.set s.asmFill code
      asmFill := s.asmFill + 1
      response := some ⟨.ok, {}, []⟩ }

/-- R120 to R122: the sample that completes the scan hands the frame over, with this `PUSH`'s timestamp, and
overwrites, counts and indicates an unconsumed entry. -/
def Obligations.PushCompletesScan : Prop :=
  ∀ (code : Code) (ts : Timestamp) (s : State), s.asmFill + 1 = s.params.v + s.params.ct →
    exec (.push code ts) s = .next { s with
      abuf := s.abuf.set s.asmFill code
      asmFill := 0
      fslot := some ⟨s.abuf.set s.asmFill code, ts⟩
      frameDropCount :=
        if s.fslot.isSome then BitVec.ofNat 32 (min (s.frameDropCount.toNat + 1) (2 ^ 32 - 1)) else s.frameDropCount
      faultInd := if s.fslot.isSome then s.faultInd ||| 0b01#2 else s.faultInd
      response := some ⟨.ok, { fdone := true, drop := s.fslot.isSome }, []⟩ }

/-- A `PUSH` faults exactly in the states with `asm_fill >= VCT_TOTAL`, which R123 lets a model fault on (model's
choice, log entry 11). -/
def Obligations.PushFaultsExactlyWhenOverfull : Prop :=
  ∀ (code : Code) (ts : Timestamp) (s : State),
    exec (.push code ts) s = .fault .assemblerOverflow ↔ s.params.v + s.params.ct ≤ s.asmFill

/-- R120, R122, R124: a whole scan of pushes, from an empty buffer, hands over exactly its codes in order with the
last timestamp, and touches nothing of the engine. -/
def Obligations.ScanOfPushesHandsOverFrame : Prop :=
  ∀ (s : State) (ys : List (Code × Timestamp)) (code : Code) (ts : Timestamp),
    s.asmFill = 0 → s.abuf.length = s.params.v + s.params.ct → ys.length + 1 = s.params.v + s.params.ct →
    execAll (pushes (ys ++ [(code, ts)])) s = .next { s with
      abuf := ys.map Prod.fst ++ [code]
      fslot := some ⟨ys.map Prod.fst ++ [code], ts⟩
      frameDropCount :=
        if s.fslot.isSome then BitVec.ofNat 32 (min (s.frameDropCount.toNat + 1) (2 ^ 32 - 1)) else s.frameDropCount
      faultInd := if s.fslot.isSome then s.faultInd ||| 0b01#2 else s.faultInd
      response := some ⟨.ok, { fdone := true, drop := s.fslot.isSome }, []⟩ }

/-- R127 (the spec's inference from R120 and R122), for pushes alone: after `n` pushes from reset the fill is `n mod
VCT_TOTAL`; the slot holds the last of the `n / VCT_TOTAL` complete scans with the timestamp of its last push; every
hand-off but the first was a drop. -/
def Obligations.PushesFromResetFillScans : Prop :=
  ∀ (p : Params) (xs : List (Code × Timestamp)), paramsLegal p = true →
    ∃ t, execAll (pushes xs) (State.resetOf p) = .next t ∧
      t.asmFill = xs.length % (p.v + p.ct) ∧
      t.frameDropCount.toNat = min (xs.length / (p.v + p.ct) - 1) (2 ^ 32 - 1) ∧
      (xs.length < p.v + p.ct → t.fslot = none) ∧
      (p.v + p.ct ≤ xs.length → ∃ e, t.fslot = some e ∧
        e.frame = ((xs.drop ((xs.length / (p.v + p.ct) - 1) * (p.v + p.ct))).take (p.v + p.ct)).map Prod.fst ∧
        (xs[xs.length / (p.v + p.ct) * (p.v + p.ct) - 1]?).map Prod.snd = some e.ts)

/-- R126, R144: `OVRN` counts one event, saturating, and changes nothing else. -/
def Obligations.OvrnCountsOneEvent : Prop :=
  ∀ s : State, exec .ovrn s = .next { s with
    overrunCount := BitVec.ofNat 32 (min (s.overrunCount.toNat + 1) (2 ^ 32 - 1))
    response := some ⟨.ok, {}, []⟩ }

/-! ### The FRAME command -/

/-- R94: a header with `len` not 0 opens a burst of `len` data words and does not answer yet; with `len = 0` the
command is complete and too short (R226). The register `burst` is the model's choice, log entry 9. -/
def Obligations.FrameHeaderOpensBurst : Prop :=
  ∀ (len : BitVec 16) (ts : Timestamp) (s : State),
    (len ≠ 0#16 → exec (.frame len ts) s = .next { s with
      burst := some ⟨len.toNat, ts, [], false⟩
      response := none }) ∧
    (len = 0#16 → 1 ≤ s.params.v + s.params.ct → exec (.frame len ts) s = .next { s with
      response := some ⟨.insufficientSamples, {}, []⟩ })

/-- R94: a data word that is not the last of its burst gives one code of the frame. That the codes wait in a register
`burst`, and that there is no response yet, is the model's choice, log entry 9 (DEDUCED). Outside a burst the word is
illegal (R96 b) and is answered, which is the model's choice, log entry 8. -/
def Obligations.DataWordExtendsBurst : Prop :=
  ∀ (code : Code) (s : State),
    (∀ b, s.burst = some b → 1 < b.remaining → exec (.fdat code) s = .next { s with
      burst := some { b with remaining := b.remaining - 1, codes := b.codes ++ [code] }
      response := none }) ∧
    (s.burst = none → exec (.fdat code) s = .next { s with response := some ⟨.illegalCommand, {}, []⟩ })

/-- R94, R230: with the last data word the command runs PROCESS_FRAME on the codes, with the instance's numerics
record, and answers; a burst with a malformed word answers `ILLEGAL_COMMAND` instead. That the words are taken one a
step, held in the register `burst`, and act with the last, is the model's choice, log entry 9 (DEDUCED). -/
def Obligations.LastDataWordProcessesFrame : Prop :=
  ∀ (code : Code) (s : State) (b : Burst), s.burst = some b → b.remaining = 1 →
    (b.malformed = false →
      let o := processFrame (numericsOf s.params) { s with burst := none } (b.codes ++ [code]) b.ts
      exec (.fdat code) s = .next { o.state with response := some ⟨o.code, o.flags, []⟩ }) ∧
    (b.malformed = true →
      exec (.fdat code) s = .next { s with burst := none, response := some ⟨.illegalCommand, {}, []⟩ })

/-- R94, R230: the `1 + len` words of `FRAME ts, codes`, taken one a step, are one command: they leave what
PROCESS_FRAME leaves on the state with the words and the turns consumed, and the one answer is PROCESS_FRAME's. On
every schedule that gives the port its turns, and on the empty one, where the order of a waiting word and a waiting
METER step is the model's choice, log entry 6. One word a step is the model's choice, log entry 9 (DEDUCED). -/
def Obligations.FrameCommandRunsProcessFrame : Prop :=
  ∀ (s : State) (ts : Timestamp) (codes : List Code) (rest : List CommandWord) (later : List Turn),
    paramsLegal s.params = true → s.burst = none →
    (s.turns = List.replicate (codes.length + 1) .command ++ later ∨ (s.turns = [] ∧ later = [])) →
    codes.length ≤ s.params.frameMax → codesInRange s.params codes →
    s.port = encodeFrame ts codes ++ rest →
    let o := processFrame (numericsOf s.params) { s with port := rest, turns := later } codes ts
    Host.Core.run core (codes.length + 1) s = .next { o.state with response := some ⟨o.code, o.flags, []⟩ }

/-- R94: "If any of them is not, all `len` words are still consumed, the `FRAME` command answers `ILLEGAL_COMMAND` and
changes no state." On every schedule that gives the port its turns, and on the empty one, where the order of a waiting
word and a waiting METER step is the model's choice, log entry 6. One word a step is the model's choice, log entry 9
(DEDUCED). -/
def Obligations.MalformedBurstIsIllegal : Prop :=
  ∀ (s : State) (ts : Timestamp) (words rest : List CommandWord) (later : List Turn),
    paramsLegal s.params = true → s.burst = none →
    (s.turns = List.replicate (words.length + 1) .command ++ later ∨ (s.turns = [] ∧ later = [])) →
    words.length ≤ s.params.frameMax → (∃ w ∈ words, ¬wellFormedData s.params w) →
    s.port = encode (.frame (BitVec.ofNat 16 words.length) ts) :: (words ++ rest) →
    Host.Core.run core (words.length + 1) s =
      .next { s with port := rest, turns := later, response := some ⟨.illegalCommand, {}, []⟩ }

/-- R226: a frame shorter than `VCT_TOTAL` yields no report and no mutation, for every numerics record; and so for the
command `FRAME` (R94, R230) at its last data word, where the register `burst` is the model's choice, log entry 9
(DEDUCED). -/
def Obligations.ShortFrameChangesNothing : Prop :=
  (∀ (N : Numerics) (s : State) (F : List Code) (ts : Timestamp), F.length < s.params.v + s.params.ct →
    processFrame N s F ts = ⟨s, .insufficientSamples, {}⟩) ∧
  (∀ (code : Code) (s : State) (b : Burst), s.burst = some b → b.remaining = 1 → b.malformed = false →
    b.codes.length + 1 < s.params.v + s.params.ct →
    exec (.fdat code) s = .next { s with burst := none, response := some ⟨.insufficientSamples, {}, []⟩ })

/-- R229 (the spec's inference from R228): what PROCESS_FRAME never touches, for every numerics record. -/
def Obligations.FrameLeavesOtherRegistersAlone : Prop :=
  ∀ (N : Numerics) (s : State) (F : List Code) (ts : Timestamp),
    let t := (processFrame N s F ts).state
    t.params = s.params ∧ t.vcal = s.vcal ∧ t.ical = s.ical ∧ t.phaseCal = s.phaseCal ∧
    t.reportCycles = s.reportCycles ∧ t.mainsFrequency = s.mainsFrequency ∧ t.asmFill = s.asmFill ∧
    t.abuf = s.abuf ∧ t.fslot = s.fslot ∧ t.overrunCount = s.overrunCount ∧
    t.frameDropCount = s.frameDropCount ∧ t.faultInd.getLsbD 0 = s.faultInd.getLsbD 0 ∧
    t.port = s.port ∧ t.turns = s.turns ∧ t.burst = s.burst

/-! ### The engine -/

/-- R174, with the conversion of R170 and R171 written out: the model's voltage RMS is what the rule's loop computes,
for every numerics record. -/
def Obligations.VoltageRmsIsTheLoopOfR174 : Prop :=
  ∀ (N : Numerics) (s : State) (F : List Code) (v : Nat), 1 ≤ s.params.v + s.params.ct →
    let r := vrmsLoop N s F v (F.length + 1) 0 0x00000000#32 0
    vrms N s F v = N.fsqrt (N.fdiv r.1 (N.u2f r.2))

/-- R190, R191, with the conversions of R170, R171 and R176 written out: the model's current RMS and real power are
what the rule's joint loop computes, for every numerics record. -/
def Obligations.PowerIsTheLoopOfR190 : Prop :=
  ∀ (N : Numerics) (s : State) (F : List Code) (c : Nat), 1 ≤ s.params.v + s.params.ct →
    let r := ipowLoop N s F c (F.length + 1) 0 0x00000000#32 0x00000000#32 0
    irms N s F c = N.fsqrt (N.fdiv r.1 (N.u2f r.2.2)) ∧ realPower N s F c = N.fdiv r.2.1 (N.u2f r.2.2)

/-- R63: `count(p, L)` is the number of the channel's positions below `L`. -/
def Obligations.CountIsNumberOfSamples : Prop :=
  ∀ (p : Params) (pos len k : Nat), 1 ≤ p.v + p.ct → (k < count p pos len ↔ position p pos k < len)

/-- The last sentence of R63 (the spec's inference from R62 and R226): in an accepted frame every channel has a
sample, and every pairing read is in range. -/
def Obligations.FrameReadsStayInRange : Prop :=
  ∀ (p : Params) (len : Nat), paramsLegal p = true → p.v + p.ct ≤ len →
    (∀ pos < p.v + p.ct, 1 ≤ count p pos len) ∧
    (∀ c < p.ct, ∀ k < count p (p.v + c) len, position p (p.v + c) k < len ∧ position p p.ref k < len)

/-- R211: on the first accepted frame no energy is added and no error is raised, whatever its timestamp; the time
reference is set. -/
def Obligations.FirstFrameAddsNoEnergy : Prop :=
  ∀ (N : Numerics) (s : State) (F : List Code) (ts : Timestamp),
    s.tsValid = false → s.energy.length = s.params.ct → s.params.v + s.params.ct ≤ F.length →
    let o := processFrame N s F ts
    o.state.energy = s.energy ∧ o.state.nmCount = s.nmCount ∧ o.code = .ok ∧ o.flags.cnm = false ∧
      o.state.tsValid = true ∧ o.state.lastTimestampMs = ts

/-- R212, R233: an accepted frame whose timestamp does not advance skips its energy update, counts and answers
`ClockNonMonotonic`, moves the time reference, and computes everything else as with any other timestamp. -/
def Obligations.NonMonotonicFrameSkipsEnergy : Prop :=
  ∀ (N : Numerics) (s : State) (F : List Code) (ts : Timestamp),
    s.tsValid = true → ts.toNat ≤ s.lastTimestampMs.toNat → s.energy.length = s.params.ct →
    s.params.v + s.params.ct ≤ F.length →
    let o := processFrame N s F ts
    o.state.energy = s.energy ∧ o.code = .clockNonMonotonic ∧ o.flags.cnm = true ∧
      o.state.nmCount = BitVec.ofNat 32 (min (s.nmCount.toNat + 1) (2 ^ 32 - 1)) ∧
      o.state.lastTimestampMs = ts ∧ o.state.tsValid = true ∧
      ∀ ts' : Timestamp, let o' := processFrame N s F ts'
        o.state.pfHold = o'.state.pfHold ∧ o.state.framesSinceReport = o'.state.framesSinceReport ∧
        o.flags.rpt = o'.flags.rpt ∧ o.flags.drop = o'.flags.drop ∧
        { assembleReport N s F ts with energyWh := [] } = { assembleReport N s F ts' with energyWh := [] }

/-- R210, R213: when the timestamp advances, every processed channel's accumulator grows by its real power times the
elapsed hours, rounded once for the difference, once for the quotient, once for the product and once for the sum, for
every numerics record, provided that the elapsed hours compare above zero; and in the default record they always do.
-/
def Obligations.AdvancingFrameAddsEnergy : Prop :=
  (∀ (N : Numerics) (s : State) (F : List Code) (ts : Timestamp) (c : Nat),
    s.tsValid = true → s.lastTimestampMs.toNat < ts.toNat → c < min s.params.ct s.params.ctProcMax →
    s.params.v + s.params.ct ≤ F.length →
    let o := processFrame N s F ts
    let eh := N.fdiv (N.i2f ((ts.toNat : Int) - (s.lastTimestampMs.toNat : Int))) 0x4A5BBA00#32
    o.code = .ok ∧ o.flags.cnm = false ∧ o.state.nmCount = s.nmCount ∧
      (N.fgt eh 0x00000000#32 = true →
        lane o.state.energy c = N.fadd (lane s.energy c) (N.fmul (realPower N s F c) eh)) ∧
      (N.fgt eh 0x00000000#32 = false → lane o.state.energy c = lane s.energy c)) ∧
  (∀ last ts : Timestamp, last.toNat < ts.toNat →
    fgt (fdiv (i2f ((ts.toNat : Int) - (last.toNat : Int))) 0x4A5BBA00#32) 0x00000000#32 = true)

/-- R178: an unprocessed channel reports zeros and its held power factor and accumulator, and neither changes. -/
def Obligations.UnprocessedChannelsReportZero : Prop :=
  ∀ (N : Numerics) (s : State) (F : List Code) (ts : Timestamp) (c : Nat),
    min s.params.ct s.params.ctProcMax ≤ c → c < s.params.ct → s.params.v + s.params.ct ≤ F.length →
    let o := processFrame N s F ts
    let r := assembleReport N s F ts
    lane r.currentRms c = 0x00000000#32 ∧ lane r.realPower c = 0x00000000#32 ∧ lane r.apparentPower c = 0x00000000#32 ∧
      lane r.powerFactor c = lane s.pfHold c ∧ lane r.energyWh c = lane s.energy c ∧
      lane o.state.pfHold c = lane s.pfHold c ∧ lane o.state.energy c = lane s.energy c

/-- R195 to R197: above the threshold the clamped quotient is reported and held; at or below it, or for a NaN, the
held value is reported, clamped, and not written. -/
def Obligations.PowerFactorBranches : Prop :=
  ∀ (N : Numerics) (s : State) (F : List Code) (ts : Timestamp) (c : Nat),
    c < min s.params.ct s.params.ctProcMax → s.params.v + s.params.ct ≤ F.length →
    let o := processFrame N s F ts
    let r := assembleReport N s F ts
    let S := N.fmul (vrms N s F s.params.ref) (irms N s F c)
    let q := clamp1 N (N.fdiv (realPower N s F c) S)
    (N.fgt S 0x3C23D70A#32 = true → lane r.powerFactor c = q ∧ lane o.state.pfHold c = q) ∧
    (N.fgt S 0x3C23D70A#32 = false →
      lane r.powerFactor c = clamp1 N (lane s.pfHold c) ∧ lane o.state.pfHold c = lane s.pfHold c)

/-- R158: the clamp, on every pattern. -/
def Obligations.ClampKeepsUnitInterval : Prop :=
  ∀ x : F32,
    (isNaN x = true → clamp1 defaultNumerics x = x) ∧
    (isNaN x = false → isFinite (clamp1 defaultNumerics x) = true ∧
      -1 ≤ value (clamp1 defaultNumerics x) ∧ value (clamp1 defaultNumerics x) ≤ 1) ∧
    (isFinite x = true → -1 ≤ value x → value x ≤ 1 → clamp1 defaultNumerics x = x) ∧
    (isFinite x = true → value x < -1 → clamp1 defaultNumerics x = 0xBF800000#32) ∧
    (isFinite x = true → 1 < value x → clamp1 defaultNumerics x = 0x3F800000#32) ∧
    clamp1 defaultNumerics 0x7F800000#32 = 0x3F800000#32 ∧ clamp1 defaultNumerics 0xFF800000#32 = 0xBF800000#32

/-- R192: in every emitted report the apparent power of a processed channel is exactly the product of the reported RMS
of the reference voltage channel and the reported current RMS. -/
def Obligations.ApparentPowerIsReportedProduct : Prop :=
  ∀ (N : Numerics) (s : State) (F : List Code) (ts : Timestamp) (c : Nat),
    s.params.ref < s.params.v → c < min s.params.ct s.params.ctProcMax → s.params.v + s.params.ct ≤ F.length →
    (processFrame N s F ts).flags.rpt = true →
    ∃ r, (processFrame N s F ts).state.rslot = some ⟨r, ts⟩ ∧
      lane r.apparentPower c = N.fmul (lane r.voltageRms s.params.ref) (lane r.currentRms c)

/-- R180 and R193 (the spec's inference from R173, R153 and R192): in the default record an RMS and an apparent power
are NaNs or have sign `+`. -/
def Obligations.RmsAndApparentPowerNeverNegative : Prop :=
  ∀ (s : State) (F : List Code) (v c : Nat),
    (isNaN (vrms defaultNumerics s F v) = true ∨ signBit (vrms defaultNumerics s F v) = false) ∧
    (isNaN (irms defaultNumerics s F c) = true ∨ signBit (irms defaultNumerics s F c) = false) ∧
    (isNaN (apparentPower defaultNumerics s F c) = true ∨
      signBit (apparentPower defaultNumerics s F c) = false)

/-- R234, R237: an accepted frame is counted; the one that brings the count to `report_cycles` resets it and puts a
report in `rslot`, overwriting, counting and indicating an unread one; no other frame touches `rslot`. -/
def Obligations.ReportTimerAndHandOff : Prop :=
  ∀ (N : Numerics) (s : State) (F : List Code) (ts : Timestamp), s.params.v + s.params.ct ≤ F.length →
    let o := processFrame N s F ts
    (s.framesSinceReport + 1#32 = s.reportCycles →
      o.flags.rpt = true ∧ o.flags.drop = s.rslot.isSome ∧ o.state.framesSinceReport = 0#32 ∧
      o.state.rslot = some ⟨assembleReport N s F ts, ts⟩ ∧
      (s.rslot.isSome = true →
        o.state.reportDropCount = BitVec.ofNat 32 (min (s.reportDropCount.toNat + 1) (2 ^ 32 - 1)) ∧
        o.state.faultInd = s.faultInd ||| 0b10#2) ∧
      (s.rslot.isSome = false → o.state.reportDropCount = s.reportDropCount ∧ o.state.faultInd = s.faultInd)) ∧
    (s.framesSinceReport + 1#32 ≠ s.reportCycles →
      o.flags.rpt = false ∧ o.flags.drop = false ∧ o.state.framesSinceReport = s.framesSinceReport + 1#32 ∧
      o.state.rslot = s.rslot ∧ o.state.reportDropCount = s.reportDropCount ∧ o.state.faultInd = s.faultInd)

/-- R235 (the spec's inference from R234 and R28): from reset, `n` accepted frames emit exactly `n / report_cycles`
reports and leave the count at `n mod report_cycles`. -/
def Obligations.ExactlyOneReportPerCycle : Prop :=
  ∀ (N : Numerics) (p : Params) (fs : List (List Code × Timestamp)), paramsLegal p = true →
    (∀ f ∈ fs, p.v + p.ct ≤ f.1.length) →
    let r := processAll N fs (State.resetOf p)
    r.1.framesSinceReport.toNat = fs.length % p.reportCycles.toNat ∧ r.2 = fs.length / p.reportCycles.toNat

/-- R236: the emitted report holds this frame's values, the configured frequency bit for bit, and the accumulators
after this frame's update; every field has one element per channel. -/
def Obligations.ReportIsSnapshotOfFrame : Prop :=
  ∀ (N : Numerics) (s : State) (F : List Code) (ts : Timestamp),
    (processFrame N s F ts).flags.rpt = true →
    ∃ r, (processFrame N s F ts).state.rslot = some ⟨r, ts⟩ ∧ ReportShape s.params r ∧
      r.frequency = s.mainsFrequency ∧ r.energyWh = (processFrame N s F ts).state.energy ∧
      (∀ v < s.params.v, lane r.voltageRms v = vrms N s F v) ∧
      (∀ c < min s.params.ct s.params.ctProcMax,
        lane r.currentRms c = irms N s F c ∧ lane r.realPower c = realPower N s F c)

/-- R104: the word offsets of the report record. -/
def Obligations.ReportWordOffsets : Prop :=
  ∀ (p : Params) (r : Report), ReportShape p r →
    r.words.length = p.v + 5 * p.ct + 1 ∧
    (∀ v < p.v, r.words[v]? = r.voltageRms[v]?) ∧
    (∀ c < p.ct, r.words[p.v + c]? = r.currentRms[c]? ∧ r.words[p.v + p.ct + c]? = r.realPower[c]? ∧
      r.words[p.v + 2 * p.ct + c]? = r.apparentPower[c]? ∧ r.words[p.v + 3 * p.ct + c]? = r.powerFactor[c]? ∧
      r.words[p.v + 4 * p.ct + 1 + c]? = r.energyWh[c]?) ∧
    r.words[p.v + 4 * p.ct]? = some r.frequency

/-- R241 (the spec's inference from R230 and R232): the METER step on a full `fslot` leaves what the command `FRAME
ts, F` leaves on the same state with `fslot` emptied, and the answer of that `FRAME` is the code and flags that METER
discards. R232: whether or not a burst is in transit (model's choice, log entry 9, DEDUCED), the METER step leaves
what PROCESS_FRAME leaves with `fslot` emptied, and gives no response. On an empty `fslot` it is not enabled and only
its turn passes (model's choice, log entry 19). -/
def Obligations.MeterAgreesWithFrame : Prop :=
  ∀ s : State, paramsLegal s.params = true →
    (∀ e, s.fslot = some e → s.burst = none → e.frame.length ≤ s.params.frameMax →
      codesInRange s.params e.frame →
      let o := processFrame (numericsOf s.params) { s with fslot := none } e.frame e.ts
      ∃ m f, step { s with turns := .meter :: s.turns } = .next m ∧
        Host.Core.run core (e.frame.length + 1)
          { s with
            fslot := none
            turns := List.replicate (e.frame.length + 1) .command
            port := encodeFrame e.ts e.frame } = .next f ∧
        f.response = some ⟨o.code, o.flags, []⟩ ∧
        m = { f with port := s.port, turns := s.turns, response := none }) ∧
    (∀ e, s.fslot = some e → step { s with turns := .meter :: s.turns } = .next
      { (processFrame (numericsOf s.params) { s with fslot := none } e.frame e.ts).state with response := none }) ∧
    (s.fslot = none → step { s with turns := .meter :: s.turns } = .next s)

/-- R296 (the spec's inference from R229 and R120): a `PUSH` that does not complete a scan has the same effect just
before and just after a METER step. -/
def Obligations.PushCommutesWithMeter : Prop :=
  ∀ (code : Code) (ts : Timestamp) (s : State), s.asmFill + 1 < s.params.v + s.params.ct →
    ∃ a, exec (.push code ts) s = .next a ∧
      exec (.push code ts) (meterTurn s) = .next { meterTurn a with response := a.response }

/-! ### Configuration and read-out -/

/-- R250: `NOP` writes no register and answers `OK`; its word is all zeros. -/
def Obligations.NopAnswersOk : Prop :=
  encode .nop = 0#64 ∧ ∀ s : State, exec .nop s = .next { s with response := some ⟨.ok, {}, []⟩ }

/-- R252, R253: `SETV` writes the scale bit for bit for `ch < V`, and otherwise changes nothing and says so. -/
def Obligations.SetvIsBoundsChecked : Prop :=
  ∀ (ch : BitVec 8) (scale : F32) (s : State),
    (ch.toNat < s.params.v → exec (.setv ch scale) s = .next { s with
      vcal := s.vcal.set ch.toNat scale
      response := some ⟨.ok, {}, []⟩ }) ∧
    (s.params.v ≤ ch.toNat → exec (.setv ch scale) s = .next { s with
      response := some ⟨.invalidChannelIndex, {}, []⟩ })

/-- R254, R255: `SETI` likewise, with the bound `CT`. -/
def Obligations.SetiIsBoundsChecked : Prop :=
  ∀ (ch : BitVec 8) (scale : F32) (s : State),
    (ch.toNat < s.params.ct → exec (.seti ch scale) s = .next { s with
      ical := s.ical.set ch.toNat scale
      response := some ⟨.ok, {}, []⟩ }) ∧
    (s.params.ct ≤ ch.toNat → exec (.seti ch scale) s = .next { s with
      response := some ⟨.invalidChannelIndex, {}, []⟩ })

/-- R252: the setters are idempotent, for every index, and two setters for different channels commute. -/
def Obligations.SettersIdempotentAndCommuting : Prop :=
  ∀ (a b : BitVec 8) (x y : F32) (s : State),
    (∃ t, exec (.setv a x) s = .next t ∧ exec (.setv a x) t = .next t) ∧
    (∃ t, exec (.seti a x) s = .next t ∧ exec (.seti a x) t = .next t) ∧
    (a ≠ b → a.toNat < s.params.v → b.toNat < s.params.v →
      execAll [.setv a x, .setv b y] s = execAll [.setv b y, .setv a x] s) ∧
    (a ≠ b → a.toNat < s.params.ct → b.toNat < s.params.ct →
      execAll [.seti a x, .seti b y] s = execAll [.seti b y, .seti a x] s)

/-- R256: `RSTE` writes `+0.0` to every accumulator, whatever it held, and changes nothing else. -/
def Obligations.RsteZeroesAccumulators : Prop :=
  ∀ s : State, exec .rste s = .next { s with
    energy := List.replicate s.energy.length 0x00000000#32
    response := some ⟨.ok, {}, []⟩ }

/-- R258: `GETE` answers the bit patterns of all accumulators, channel 0 first, and changes nothing. -/
def Obligations.GeteAnswersAccumulators : Prop :=
  ∀ s : State, exec .gete s = .next { s with response := some ⟨.ok, {}, s.energy⟩ }

/-- R260: `POPR` answers the record's words and the timestamp and empties the slot; on an empty slot it answers
`EMPTY` and changes nothing. -/
def Obligations.PoprDeliversAndEmpties : Prop :=
  ∀ s : State,
    (∀ e, s.rslot = some e → exec .popr s = .next { s with
      rslot := none
      response := some ⟨.ok, {}, e.report.words ++ [e.ts]⟩ }) ∧
    (s.rslot = none → exec .popr s = .next { s with response := some ⟨.empty, {}, []⟩ })

/-- R262: `DIAG` answers the four counters and the sticky bits, and changes nothing. -/
def Obligations.DiagAnswersCounters : Prop :=
  ∀ s : State, exec .diag s = .next { s with
    response := some ⟨.ok, {}, [s.overrunCount, s.frameDropCount, s.reportDropCount, s.nmCount,
      BitVec.ofNat 32 s.faultInd.toNat]⟩ }

/-! ### Reset and invariants -/

/-- R47, R330: every register after reset, for every instance. -/
def Obligations.ResetEstablishesRegisters : Prop :=
  ∀ p : Params, let s := State.resetOf p
    (s.vcal = List.replicate p.v p.vcalDefault ∧ s.ical = List.replicate p.ct p.icalDefault ∧
      s.phaseCal = List.replicate p.ct 0x00000000#32 ∧ s.energy = List.replicate p.ct 0x00000000#32 ∧
      s.pfHold = List.replicate p.ct p.pfDefault) ∧
    (s.framesSinceReport = 0#32 ∧ s.lastTimestampMs = 0#32 ∧ s.tsValid = false ∧
      s.reportCycles = p.reportCycles ∧ s.mainsFrequency = p.mainsFrequency) ∧
    (s.asmFill = 0 ∧ s.abuf = List.replicate (p.v + p.ct) 0#16 ∧ s.fslot = none ∧ s.rslot = none) ∧
    (s.overrunCount = 0#32 ∧ s.frameDropCount = 0#32 ∧ s.reportDropCount = 0#32 ∧ s.nmCount = 0#32 ∧
      s.faultInd = 0b00#2)

/-- The state after reset of every legal instance, the reference instance among them, meets every invariant below. -/
def Obligations.ResetMeetsInvariants : Prop :=
  State.reset = State.resetOf Params.reference ∧ paramsLegal Params.reference = true ∧
  ∀ p : Params, paramsLegal p = true →
    Shape (State.resetOf p) ∧ HoldsInRange (State.resetOf p) ∧ PowerFactorsAll pfInRange (State.resetOf p) ∧
      PowerFactorsAll pfInUnit (State.resetOf p) ∧ IdleLanes (State.resetOf p) ∧ DropsIndicated (State.resetOf p)

/-- R20, R28, R35 to R39: every step keeps the shape of the state: array lengths, codes in range, the fill below
`VCT_TOTAL`, the report-cycle counter below `report_cycles`, slots well formed. -/
def Obligations.StepKeepsShape : Prop :=
  ∀ s t : State, Shape s → step s = .next t → Shape t

/-- R286, with R123 and R332 for the two stops a model may have: a machine in a well-shaped state never stops: every
step, whatever is at the port and in the schedule, answers a next state. -/
def Obligations.ShapedMachineNeverStops : Prop :=
  ∀ s : State, Shape s → ∃ t, step s = .next t

/-- R199 (the spec's inference from R158, R195 and R196), in an instance with the default numerics record: every step
keeps every held power factor, and every held and reported one, in `[-1, 1]` or a NaN, with no premise on the values;
and with the rule's premise, that the frame of the step, if it takes one that is accepted, overflows nowhere and uses
finite scale factors, every step keeps every held and every reported power factor of every channel in `[-1, 1]`. -/
def Obligations.StepKeepsPowerFactorsInRange : Prop :=
  ∀ s t : State, s.params.numerics = .ieee754 → step s = .next t →
    (HoldsInRange s → HoldsInRange t) ∧
    (PowerFactorsAll pfInRange s → PowerFactorsAll pfInRange t) ∧
    ((∀ F, stepFrame s = some F → s.params.v + s.params.ct ≤ F.length → NoOverflow s F) →
      PowerFactorsAll pfInUnit s → PowerFactorsAll pfInUnit t)

/-- R33, R178: the lanes of unprocessed channels keep `+0.0` and `PF_DEFAULT`; R44: a sticky bit stays set exactly
when its drop counter is not 0. -/
def Obligations.StepKeepsIdleLanesAndIndicators : Prop :=
  ∀ s t : State, step s = .next t → (IdleLanes s → IdleLanes t) ∧ (DropsIndicated s → DropsIndicated t)

/-- R302, R26, R31, R32, R21: no step writes the parameters, `phase_cal`, `report_cycles` or `mains_frequency`; R40 to
R44: no step clears a sticky bit or lowers a diagnostic counter. -/
def Obligations.ReadOnlyAndStickyState : Prop :=
  ∀ s t : State, step s = .next t →
    (t.params = s.params ∧ t.phaseCal = s.phaseCal ∧ t.reportCycles = s.reportCycles ∧
      t.mainsFrequency = s.mainsFrequency) ∧
    (∀ i < 2, s.faultInd.getLsbD i = true → t.faultInd.getLsbD i = true) ∧
    s.overrunCount.toNat ≤ t.overrunCount.toNat ∧ s.frameDropCount.toNat ≤ t.frameDropCount.toNat ∧
    s.reportDropCount.toNat ≤ t.reportDropCount.toNat ∧ s.nmCount.toNat ≤ t.nmCount.toNat

/-- R27: the accumulators are "mutated only by energy accumulation and explicit reset": a step that changes one is a
METER step with a frame waiting, an `RSTE`, or the last data word of a `FRAME`. -/
def Obligations.EnergyChangesOnlyByFrameOrRste : Prop :=
  ∀ s t : State, step s = .next t → t.energy ≠ s.energy →
    (nextTurn s = .meter ∧ s.fslot.isSome = true) ∨
    (nextTurn s = .command ∧ ∃ w rest, s.port = w :: rest ∧
      (decodeIn s.burst.isSome s.params w = .ok .rste ∨
       ∃ code b, decodeIn s.burst.isSome s.params w = .ok (.fdat code) ∧ s.burst = some b ∧ b.remaining ≤ 1 ∧
         b.malformed = false))

/-! ### The default numerics record -/

/-- R152: on finite operands `fadd` and `fmul` return the correctly rounded exact sum and product, ties to even, with
gradual underflow and overflow to an infinity. -/
def Obligations.AddAndMultiplyRoundCorrectly : Prop :=
  ∀ a b : F32, isFinite a = true → isFinite b = true →
    RoundsTo ((value a + value b : ℚ) : ℝ) (fadd a b) ∧ RoundsTo ((value a * value b : ℚ) : ℝ) (fmul a b)

/-- R152: on finite operands `fdiv` by a non-zero divisor and `fsqrt` of a number not below zero return the correctly
rounded exact quotient and root. -/
def Obligations.DivideAndRootRoundCorrectly : Prop :=
  ∀ a b : F32, isFinite a = true → isFinite b = true →
    (value b ≠ 0 → RoundsTo ((value a / value b : ℚ) : ℝ) (fdiv a b)) ∧
    (0 ≤ value a → RoundsTo (Real.sqrt (value a : ℚ)) (fsqrt a))

/-- R153: the operations on NaNs, infinities and zeros; and, as the default record is IEEE 754 binary32 (R150) and as
R216 c has it for the sum (the spec's inference), an infinity with a finite operand: the sum keeps the infinity, so
does a product with anything but a zero, a quotient of an infinity by a finite number is an infinity, and a quotient
by an infinity is a zero. -/
def Obligations.SpecialOperands : Prop :=
  (∀ a b : F32, isNaN a = true ∨ isNaN b = true →
    isNaN (fadd a b) = true ∧ isNaN (fmul a b) = true ∧ isNaN (fdiv a b) = true) ∧
  (∀ a : F32, isNaN a = true → isNaN (fsqrt a) = true) ∧
  (∀ a b : F32, isInf a = true → isInf b = true → signBit a ≠ signBit b → isNaN (fadd a b) = true) ∧
  (∀ a b : F32, isInf a = true → isZero b = true → isNaN (fmul a b) = true ∧ isNaN (fmul b a) = true) ∧
  (∀ a b : F32, isZero a = true → isZero b = true → isNaN (fdiv a b) = true) ∧
  (∀ a b : F32, isInf a = true → isInf b = true → isNaN (fdiv a b) = true) ∧
  (∀ a : F32, isFinite a = true → value a < 0 → isNaN (fsqrt a) = true) ∧
  (∀ a b : F32, isFinite a = true → isZero a = false → isZero b = true →
    isInf (fdiv a b) = true ∧ signBit (fdiv a b) = (signBit a != signBit b)) ∧
  (∀ a b : F32, isInf a = true → isFinite b = true → fadd a b = a ∧ fadd b a = a) ∧
  (∀ a b : F32, isInf a = true → isInf b = true → signBit a = signBit b → fadd a b = a) ∧
  (∀ a b : F32, isInf a = true → isNaN b = false → isZero b = false →
    isInf (fmul a b) = true ∧ isInf (fmul b a) = true) ∧
  (∀ a b : F32, isInf a = true → isFinite b = true → isInf (fdiv a b) = true ∧ isZero (fdiv b a) = true) ∧
  fsqrt 0x00000000#32 = 0x00000000#32 ∧ fsqrt 0x80000000#32 = 0x80000000#32 ∧
  fsqrt 0x7F800000#32 = 0x7F800000#32 ∧ isNaN (fsqrt 0xFF800000#32) = true ∧
  fadd 0x00000000#32 0x80000000#32 = 0x00000000#32 ∧
  (∀ a : F32, isFinite a = true → fadd a (a ^^^ 0x80000000#32) = 0x00000000#32) ∧
  (∀ a b : F32, isNaN (fmul a b) = false → signBit (fmul a b) = (signBit a != signBit b)) ∧
  (∀ a b : F32, isNaN (fdiv a b) = false → signBit (fdiv a b) = (signBit a != signBit b))

/-- R155: comparisons are of values, the zeros are equal, an infinity is beyond every finite value, and a comparison
with a NaN is false. -/
def Obligations.ComparisonsAreOfValues : Prop :=
  (∀ a b : F32, isFinite a = true → isFinite b = true →
    (fgt a b = true ↔ value b < value a) ∧ (flt a b = true ↔ value a < value b)) ∧
  (∀ a b : F32, isNaN a = true ∨ isNaN b = true → fgt a b = false ∧ flt a b = false) ∧
  (∀ a : F32, isFinite a = true →
    fgt 0x7F800000#32 a = true ∧ fgt a 0x7F800000#32 = false ∧ flt 0x7F800000#32 a = false ∧
    flt a 0x7F800000#32 = true ∧ flt 0xFF800000#32 a = true ∧ flt a 0xFF800000#32 = false ∧
    fgt 0xFF800000#32 a = false ∧ fgt a 0xFF800000#32 = true) ∧
  (fgt 0x7F800000#32 0xFF800000#32 = true ∧ fgt 0xFF800000#32 0x7F800000#32 = false ∧
    fgt 0x7F800000#32 0x7F800000#32 = false ∧ fgt 0xFF800000#32 0xFF800000#32 = false ∧
    flt 0xFF800000#32 0x7F800000#32 = true ∧ flt 0x7F800000#32 0xFF800000#32 = false ∧
    flt 0x7F800000#32 0x7F800000#32 = false ∧ flt 0xFF800000#32 0xFF800000#32 = false) ∧
  (∀ x : F32, isNaN x = true ↔ (expField x = 255 ∧ fracField x ≠ 0))

/-- R157, and R156 (the spec's inference from R140 and R151): the conversions are correctly rounded, and exact up to
`2^24`; a positive difference of two timestamps converts to a positive normal number. -/
def Obligations.ConversionsRoundCorrectly : Prop :=
  (∀ n : Nat, RoundsTo (n : ℝ) (u2f n)) ∧
  (∀ n : Nat, n ≤ 2 ^ 24 → isFinite (u2f n) = true ∧ value (u2f n) = (n : ℚ)) ∧
  u2f 0 = 0x00000000#32 ∧
  (∀ d : Int, RoundsTo (d : ℝ) (i2f d)) ∧
  (∀ d : Int, 1 ≤ d → d ≤ 2 ^ 24 → value (i2f d) = (d : ℚ)) ∧
  (∀ d : Int, 1 ≤ d → d ≤ 2 ^ 32 - 1 →
    signBit (i2f d) = false ∧ 1 ≤ expField (i2f d) ∧ expField (i2f d) ≤ 254) ∧
  i2f (2 ^ 32 - 1) = 0x4F800000#32
end

