-- ==== Sys2Proof/Laws/Binary32.lean ====
section
/-! SUPPORT. The fields and the value of a pattern given by its sign and magnitude, and the magnitudes as a strictly
rising grid of values. -/

namespace Sys2Proof.Machine

/-! ### Patterns by sign and magnitude -/

/-- Bits 30:0 of a pattern. -/
def magBits (x : F32) : Nat := x.toNat % 2 ^ 31

theorem magBits_lt (x : F32) : magBits x < 2 ^ 31 := Nat.mod_lt _ (by norm_num)

theorem signBit_eq (x : F32) : signBit x = decide (2 ^ 31 ≤ x.toNat) := by
  have hx := x.isLt
  unfold signBit
  rw [← BitVec.testBit_toNat]
  by_cases h : 2 ^ 31 ≤ x.toNat
  · rw [decide_eq_true h, Nat.testBit_eq_decide_div_mod_eq, decide_eq_true]; omega
  · rw [decide_eq_false h, Nat.testBit_eq_decide_div_mod_eq, decide_eq_false]; omega

theorem expField_eq (x : F32) : expField x = magBits x / 2 ^ 23 := by
  have hx := x.isLt
  unfold expField magBits
  rw [BitVec.extractLsb'_toNat, Nat.shiftRight_eq_div_pow]
  omega

theorem fracField_eq (x : F32) : fracField x = magBits x % 2 ^ 23 := by
  unfold fracField magBits
  rw [BitVec.extractLsb'_toNat, Nat.shiftRight_eq_div_pow]
  omega

theorem withSign_toNat (neg : Bool) {mag : Nat} (h : mag < 2 ^ 31) :
    (withSign neg mag).toNat = (if neg then 2 ^ 31 else 0) + mag := by
  cases neg <;> simp only [withSign, BitVec.toNat_ofNat, if_true, Bool.false_eq_true, if_false] <;> omega

theorem magBits_withSign (neg : Bool) {mag : Nat} (h : mag < 2 ^ 31) : magBits (withSign neg mag) = mag := by
  unfold magBits
  rw [withSign_toNat neg h]
  cases neg <;> simp only [if_true, Bool.false_eq_true, if_false] <;> omega

theorem signBit_withSign (neg : Bool) {mag : Nat} (h : mag < 2 ^ 31) : signBit (withSign neg mag) = neg := by
  rw [signBit_eq, withSign_toNat neg h]
  cases neg
  · simp only [Bool.false_eq_true, if_false, decide_eq_false_iff_not]; omega
  · simp

theorem withSign_magBits (x : F32) : withSign (signBit x) (magBits x) = x := by
  have hx := x.isLt
  apply BitVec.eq_of_toNat_eq
  rw [withSign_toNat _ (magBits_lt x), signBit_eq]
  unfold magBits
  by_cases h : 2 ^ 31 ≤ x.toNat
  · rw [if_pos (by simpa using h)]; omega
  · rw [if_neg (by simpa using h)]; omega

theorem isFinite_iff (x : F32) : isFinite x = true ↔ magBits x < infMag := by
  have := magBits_lt x
  simp only [isFinite, expField_eq, infMag, bne_iff_ne, ne_eq]
  omega

theorem isNaN_iff (x : F32) : isNaN x = true ↔ infMag < magBits x := by
  have := magBits_lt x
  simp only [isNaN, expField_eq, fracField_eq, infMag, Bool.and_eq_true, beq_iff_eq, bne_iff_ne, ne_eq]
  omega

theorem isInf_iff (x : F32) : isInf x = true ↔ magBits x = infMag := by
  have := magBits_lt x
  simp only [isInf, expField_eq, fracField_eq, infMag, Bool.and_eq_true, beq_iff_eq]
  omega

theorem isZero_iff (x : F32) : isZero x = true ↔ magBits x = 0 := by
  have := magBits_lt x
  simp only [isZero, expField_eq, fracField_eq, Bool.and_eq_true, beq_iff_eq]
  omega

theorem roundMag_le (m : Nat) (e : Int) (sticky : Bool) : roundMag m e sticky ≤ infMag := by
  unfold roundMag
  split
  · exact Nat.zero_le _
  · exact Nat.min_le_right _ _

theorem infMag_lt : infMag < 2 ^ 31 := by decide

theorem roundMag_lt (m : Nat) (e : Int) (sticky : Bool) : roundMag m e sticky < 2 ^ 31 :=
  lt_of_le_of_lt (roundMag_le m e sticky) infMag_lt

/-- Every pattern that `nanOf` makes is a NaN (R154). -/
theorem isNaN_nanOf (b : BitVec 24) : isNaN (nanOf b) = true := by
  have hf : b.toNat % 2 ^ 23 < 2 ^ 23 := Nat.mod_lt _ (by norm_num)
  rw [isNaN_iff]
  unfold nanOf
  simp only
  split
  · rw [magBits_withSign _ (by unfold infMag; norm_num)]; omega
  · rw [magBits_withSign _ (by unfold infMag; omega)]; omega

@[simp] theorem isNaN_freeNaN (op : NanSource) (a b : F32) : isNaN (freeNaN op a b) = true := isNaN_nanOf _

/-- A rounded result is not a NaN. -/
theorem isNaN_withSign_roundMag (neg : Bool) (m : Nat) (e : Int) (sticky : Bool) :
    isNaN (withSign neg (roundMag m e sticky)) = false := by
  have h := isNaN_iff (withSign neg (roundMag m e sticky))
  rw [magBits_withSign neg (roundMag_lt m e sticky)] at h
  have := roundMag_le m e sticky
  cases hn : isNaN (withSign neg (roundMag m e sticky))
  · rfl
  · rw [h] at hn; omega

/-! ### When a result is not a NaN (R153) -/

/-- A pattern is finite when it is neither a NaN nor an infinity (R151). -/
theorem isFinite_iff_not (x : F32) : isFinite x = true ↔ isNaN x = false ∧ isInf x = false := by
  have h1 := isFinite_iff x
  have h2 := isNaN_iff x
  have h3 := isInf_iff x
  rw [h1, ← Bool.not_eq_true, ← Bool.not_eq_true, h2, h3]
  omega

/-- A product of finite operands is not a NaN. -/
theorem isNaN_fmul {a b : F32} (ha : isFinite a = true) (hb : isFinite b = true) : isNaN (fmul a b) = false := by
  obtain ⟨a1, a2⟩ := (isFinite_iff_not a).1 ha
  obtain ⟨b1, b2⟩ := (isFinite_iff_not b).1 hb
  simp [fmul, a1, a2, b1, b2, isNaN_withSign_roundMag]

/-- A sum of finite operands is not a NaN. -/
theorem isNaN_fadd {a b : F32} (ha : isFinite a = true) (hb : isFinite b = true) : isNaN (fadd a b) = false := by
  obtain ⟨a1, a2⟩ := (isFinite_iff_not a).1 ha
  obtain ⟨b1, b2⟩ := (isFinite_iff_not b).1 hb
  simp only [fadd, a1, a2, b1, b2, Bool.or_self, Bool.false_eq_true, if_false]
  split
  · exact isNaN_withSign_roundMag _ 0 0 false
  · exact isNaN_withSign_roundMag _ _ _ _

theorem isNaN_withSign_zero (neg : Bool) : isNaN (withSign neg 0) = false := by cases neg <;> decide

/-- A quotient of a finite dividend by a non-zero divisor that is not a NaN is not a NaN. -/
theorem isNaN_fdiv {a b : F32} (ha : isFinite a = true) (hb : isNaN b = false) (hz : isZero b = false) :
    isNaN (fdiv a b) = false := by
  obtain ⟨a1, a2⟩ := (isFinite_iff_not a).1 ha
  simp only [fdiv, a1, a2, hb, hz, Bool.or_self, Bool.false_eq_true, if_false, Bool.and_false, Bool.false_and]
  split
  · exact isNaN_withSign_zero _
  · exact isNaN_withSign_roundMag _ _ _ _

theorem isNaN_u2f (n : Nat) : isNaN (u2f n) = false := isNaN_withSign_roundMag _ _ _ _

/-- A positive count does not convert to a zero (R156). -/
theorem isZero_u2f {n : Nat} (h : 1 ≤ n) : isZero (u2f n) = false := by
  have h0 := isZero_iff (u2f n)
  rw [u2f, magBits_withSign _ (roundMag_lt _ _ _)] at h0
  have : roundMag n 0 false ≠ 0 := by
    unfold roundMag
    rw [if_neg (by omega)]
    simp only
    have hi : infMag = 2139095040 := rfl
    have : ((max (0 + (Nat.log2 n : Int) - 23) (-149) + 149).toNat) ≥ 126 := by omega
    have : 126 * 2^23 ≤ ((max (0 + (Nat.log2 n : Int) - 23) (-149) + 149).toNat) * 2 ^ 23 := Nat.mul_le_mul_right _ this
    omega
  rw [u2f]
  cases h : isZero (withSign false (roundMag n 0 false))
  · rfl
  · exact absurd (h0.1 h) this

/-- `clamp1` of the default record (R158). -/
theorem clamp1_default (x : F32) :
    clamp1 defaultNumerics x =
      if isNaN x then x else if flt x fNegOne then fNegOne else if fgt x fOne then fOne else x := rfl

/-! ### The integer square root -/

theorem isqrtFrom_spec (i n r : Nat) (hlo : r * r ≤ n) (hhi : n < (r + 2 ^ i) * (r + 2 ^ i)) :
    isqrtFrom i n r * isqrtFrom i n r ≤ n ∧ n < (isqrtFrom i n r + 1) * (isqrtFrom i n r + 1) := by
  induction i generalizing r with
  | zero => exact ⟨hlo, by simpa [isqrtFrom] using hhi⟩
  | succ i ih =>
    have hp : r + 2 ^ (i + 1) = r + 2 ^ i + 2 ^ i := by ring
    rw [hp] at hhi
    simp only [isqrtFrom]
    by_cases h : (r + 2 ^ i) * (r + 2 ^ i) ≤ n
    · rw [if_pos h]; exact ih _ h hhi
    · rw [if_neg h]; exact ih _ hlo (not_le.mp h)

/-- `isqrt` is the integer square root of a number below `2^80`. -/
theorem isqrt_spec {n : Nat} (h : n < 2 ^ 80) : isqrt n * isqrt n ≤ n ∧ n < (isqrt n + 1) * (isqrt n + 1) :=
  isqrtFrom_spec 40 n 0 (Nat.zero_le _) (by norm_num at h ⊢; exact h)

/-! ### The grid of magnitudes -/

/-- The value of the magnitude with bits 30:0 equal to `i` (R151), read on past the largest finite one. -/
def gridValue (i : Nat) : ℚ :=
  if i < 2 ^ 23 then (i : ℚ) * 2 ^ (-149 : ℤ)
  else ((2 ^ 23 + i % 2 ^ 23 : Nat) : ℚ) * 2 ^ ((i / 2 ^ 23 : Nat) - 150 : ℤ)

/-- Around a binade, the grid counts in units of `2^(j-149)`. -/
theorem gridValue_scaled {j n : Nat} (h : j = 0 ∨ 2 ^ 23 ≤ n) (hn : n ≤ 2 ^ 24) :
    gridValue (j * 2 ^ 23 + n) = (n : ℚ) * 2 ^ ((j : ℤ) - 149) := by
  unfold gridValue
  rcases Nat.lt_or_ge n (2 ^ 23) with h1 | h1
  · obtain rfl : j = 0 := by omega
    rw [if_pos (by omega)]
    simp
  · rw [if_neg (by omega)]
    rcases Nat.lt_or_ge n (2 ^ 24) with h2 | h2
    · have e1 : (j * 2 ^ 23 + n) / 2 ^ 23 = j + 1 := by omega
      have e2 : 2 ^ 23 + (j * 2 ^ 23 + n) % 2 ^ 23 = n := by omega
      rw [e1, e2]
      congr 2
      push_cast
      ring
    · obtain rfl : n = 2 ^ 24 := by omega
      have e1 : (j * 2 ^ 23 + 2 ^ 24) / 2 ^ 23 = j + 2 := by omega
      have e2 : 2 ^ 23 + (j * 2 ^ 23 + 2 ^ 24) % 2 ^ 23 = 2 ^ 23 := by omega
      rw [e1, e2]
      have : ((j + 2 : Nat) : ℤ) - 150 = (j : ℤ) - 149 + 1 := by push_cast; ring
      rw [this, zpow_add₀ (by norm_num)]
      push_cast
      ring

theorem gridValue_lt_succ (i : Nat) : gridValue i < gridValue (i + 1) := by
  have key : ∀ j n : Nat, (j = 0 ∨ 2 ^ 23 ≤ n) → n + 1 ≤ 2 ^ 24 →
      gridValue (j * 2 ^ 23 + n) < gridValue (j * 2 ^ 23 + n + 1) := by
    intro j n h hn
    rw [gridValue_scaled h (by omega), Nat.add_assoc, gridValue_scaled (by omega) hn]
    have : (0 : ℚ) < 2 ^ ((j : ℤ) - 149) := by positivity
    push_cast
    nlinarith
  rcases Nat.lt_or_ge i (2 ^ 23) with h | h
  · have := key 0 i (Or.inl rfl) (by omega)
    simpa using this
  · have := key (i / 2 ^ 23 - 1) (2 ^ 23 + i % 2 ^ 23) (Or.inr (by omega)) (by omega)
    have e : (i / 2 ^ 23 - 1) * 2 ^ 23 + (2 ^ 23 + i % 2 ^ 23) = i := by omega
    rwa [e] at this

theorem gridValue_strictMono : StrictMono gridValue := strictMono_nat_of_lt_succ gridValue_lt_succ

theorem gridValue_zero : gridValue 0 = 0 := by simp [gridValue]

theorem gridValue_nonneg (i : Nat) : 0 ≤ gridValue i :=
  gridValue_zero ▸ gridValue_strictMono.monotone (Nat.zero_le i)

/-- A finite pattern's value is its grid value with its sign. -/
theorem value_eq (x : F32) : value x = (if signBit x then -1 else 1) * gridValue (magBits x) := by
  have key : (significand x : ℚ) * 2 ^ scaleExp x = gridValue (magBits x) := by
    unfold significand scaleExp gridValue
    rw [expField_eq, fracField_eq]
    by_cases h : magBits x < 2 ^ 23
    · have h1 : magBits x / 2 ^ 23 = 0 := by omega
      have h2 : magBits x % 2 ^ 23 = magBits x := by omega
      rw [if_pos h1, if_pos h1, if_pos h, h2]
    · have h1 : magBits x / 2 ^ 23 ≠ 0 := by omega
      rw [if_neg h1, if_neg h1, if_neg h]
  unfold value
  rw [mul_assoc, key]

theorem value_withSign (neg : Bool) {mag : Nat} (h : mag < 2 ^ 31) :
    value (withSign neg mag) = (if neg then -1 else 1) * gridValue mag := by
  rw [value_eq, signBit_withSign neg h, magBits_withSign neg h]

end Sys2Proof.Machine
end

