-- ==== Sys2Proof/Laws/Decode.lean ====
section
/-! SUPPORT. The four fields of a packed word, and a word from its four fields (spec/30_encoding.md R90). -/

namespace Sys2Proof

@[simp] theorem fieldOp_packWord (op ch : BitVec 8) (aux : BitVec 16) (data : BitVec 32) :
    fieldOp (packWord op ch aux data) = op := by
  unfold fieldOp packWord
  ext i hi
  have h1 : ch.getLsbD (56 + i - 48) = false := BitVec.getLsbD_of_ge _ _ (by omega)
  have h2 : aux.getLsbD (56 + i - 32) = false := BitVec.getLsbD_of_ge _ _ (by omega)
  have h3 : data.getLsbD (56 + i) = false := BitVec.getLsbD_of_ge _ _ (by omega)
  have h4 : 56 + i < 64 := by omega
  simp [h1, h2, h3, h4, hi]

@[simp] theorem fieldCh_packWord (op ch : BitVec 8) (aux : BitVec 16) (data : BitVec 32) :
    fieldCh (packWord op ch aux data) = ch := by
  unfold fieldCh packWord
  ext i hi
  have h2 : aux.getLsbD (48 + i - 32) = false := BitVec.getLsbD_of_ge _ _ (by omega)
  have h3 : data.getLsbD (48 + i) = false := BitVec.getLsbD_of_ge _ _ (by omega)
  have h4 : 48 + i < 64 := by omega
  have h5 : 48 + i < 56 := by omega
  simp [h2, h3, h4, h5, hi]

@[simp] theorem fieldAux_packWord (op ch : BitVec 8) (aux : BitVec 16) (data : BitVec 32) :
    fieldAux (packWord op ch aux data) = aux := by
  unfold fieldAux packWord
  ext i hi
  have h3 : data.getLsbD (32 + i) = false := BitVec.getLsbD_of_ge _ _ (by omega)
  have h4 : 32 + i < 64 := by omega
  have h5 : 32 + i < 56 := by omega
  have h6 : 32 + i < 48 := by omega
  simp [h4, h5, h6, hi]

@[simp] theorem fieldData_packWord (op ch : BitVec 8) (aux : BitVec 16) (data : BitVec 32) :
    fieldData (packWord op ch aux data) = data := by
  unfold fieldData packWord
  ext i hi
  have h4 : i < 64 := by omega
  have h5 : i < 56 := by omega
  have h6 : i < 48 := by omega
  simp [h4, h5, h6, hi]

theorem packWord_fields (w : CommandWord) :
    packWord (fieldOp w) (fieldCh w) (fieldAux w) (fieldData w) = w := by
  unfold fieldOp fieldCh fieldAux fieldData packWord
  ext i hi
  by_cases h1 : i < 32
  · have a : i < 56 := by omega
    have b : i < 48 := by omega
    simp [h1, a, b, hi]
  · by_cases h2 : i < 48
    · have a : i < 56 := by omega
      have b : i - 32 < 16 := by omega
      have c : 32 + (i - 32) = i := by omega
      simp [h1, h2, a, b, c, hi]
    · by_cases h3 : i < 56
      · have b : i - 48 < 8 := by omega
        have c : 48 + (i - 48) = i := by omega
        have d : ¬ i - 32 < 16 := by omega
        simp [h1, h2, h3, b, c, d, hi]
      · have b : i - 56 < 8 := by omega
        have c : 56 + (i - 56) = i := by omega
        have d : ¬ i - 32 < 16 := by omega
        have e : ¬ i - 48 < 8 := by omega
        simp [h1, h2, h3, b, c, d, e, hi]

/-- A checked instruction is the one asked for, its reserved fields are zero and its operand is in range. -/
theorem checked_eq_ok {r c : Bool} {e : DecodeError} {i j : Instr} :
    checked r c e i = .ok j ↔ r = true ∧ c = true ∧ i = j := by
  cases r <;> cases c <;> simp [checked]

theorem decodeN_eq_ok {w : CommandWord} {i j : Instr} :
    decodeN w i = .ok j ↔ (fieldCh w = 0 ∧ fieldAux w = 0 ∧ fieldData w = 0) ∧ i = j := by
  simp [decodeN, checked_eq_ok, and_assoc]

/-- What `decodeIn` answers inside a burst (R94). -/
theorem decodeIn_true_eq_ok {p : Params} {w : CommandWord} {i : Instr} :
    decodeIn true p w = .ok i ↔ ∃ code, i = .fdat code ∧ decode p w = .ok (.fdat code) := by
  simp only [decodeIn, if_true]
  split
  · next h => simp [h, eq_comm]
  · next h =>
    simp only [reduceCtorEq, false_iff, not_exists, not_and]
    exact fun c _ hd => h c hd

@[simp] theorem decodeIn_false (p : Params) (w : CommandWord) : decodeIn false p w = decode p w := by
  simp [decodeIn]

end Sys2Proof
end

