-- ==== Sys2Proof/Laws/State.lean ====
section
/-! SUPPORT. One lemma per field per named update of State, all true by rfl, so that no proof unfolds an update. -/

namespace Sys2Proof.Machine

/-! ### answer -/

@[simp] theorem answer_params (s : State) (code : RespCode) (flags : RespFlags) (data : List Word32) :
    (s.answer code flags data).params =
      s.params := rfl
@[simp] theorem answer_vcal (s : State) (code : RespCode) (flags : RespFlags) (data : List Word32) :
    (s.answer code flags data).vcal =
      s.vcal := rfl
@[simp] theorem answer_ical (s : State) (code : RespCode) (flags : RespFlags) (data : List Word32) :
    (s.answer code flags data).ical =
      s.ical := rfl
@[simp] theorem answer_phaseCal (s : State) (code : RespCode) (flags : RespFlags) (data : List Word32) :
    (s.answer code flags data).phaseCal =
      s.phaseCal := rfl
@[simp] theorem answer_energy (s : State) (code : RespCode) (flags : RespFlags) (data : List Word32) :
    (s.answer code flags data).energy =
      s.energy := rfl
@[simp] theorem answer_framesSinceReport (s : State) (code : RespCode) (flags : RespFlags) (data : List Word32) :
    (s.answer code flags data).framesSinceReport =
      s.framesSinceReport := rfl
@[simp] theorem answer_lastTimestampMs (s : State) (code : RespCode) (flags : RespFlags) (data : List Word32) :
    (s.answer code flags data).lastTimestampMs =
      s.lastTimestampMs := rfl
@[simp] theorem answer_tsValid (s : State) (code : RespCode) (flags : RespFlags) (data : List Word32) :
    (s.answer code flags data).tsValid =
      s.tsValid := rfl
@[simp] theorem answer_reportCycles (s : State) (code : RespCode) (flags : RespFlags) (data : List Word32) :
    (s.answer code flags data).reportCycles =
      s.reportCycles := rfl
@[simp] theorem answer_mainsFrequency (s : State) (code : RespCode) (flags : RespFlags) (data : List Word32) :
    (s.answer code flags data).mainsFrequency =
      s.mainsFrequency := rfl
@[simp] theorem answer_pfHold (s : State) (code : RespCode) (flags : RespFlags) (data : List Word32) :
    (s.answer code flags data).pfHold =
      s.pfHold := rfl
@[simp] theorem answer_asmFill (s : State) (code : RespCode) (flags : RespFlags) (data : List Word32) :
    (s.answer code flags data).asmFill =
      s.asmFill := rfl
@[simp] theorem answer_abuf (s : State) (code : RespCode) (flags : RespFlags) (data : List Word32) :
    (s.answer code flags data).abuf =
      s.abuf := rfl
@[simp] theorem answer_fslot (s : State) (code : RespCode) (flags : RespFlags) (data : List Word32) :
    (s.answer code flags data).fslot =
      s.fslot := rfl
@[simp] theorem answer_rslot (s : State) (code : RespCode) (flags : RespFlags) (data : List Word32) :
    (s.answer code flags data).rslot =
      s.rslot := rfl
@[simp] theorem answer_overrunCount (s : State) (code : RespCode) (flags : RespFlags) (data : List Word32) :
    (s.answer code flags data).overrunCount =
      s.overrunCount := rfl
@[simp] theorem answer_frameDropCount (s : State) (code : RespCode) (flags : RespFlags) (data : List Word32) :
    (s.answer code flags data).frameDropCount =
      s.frameDropCount := rfl
@[simp] theorem answer_reportDropCount (s : State) (code : RespCode) (flags : RespFlags) (data : List Word32) :
    (s.answer code flags data).reportDropCount =
      s.reportDropCount := rfl
@[simp] theorem answer_nmCount (s : State) (code : RespCode) (flags : RespFlags) (data : List Word32) :
    (s.answer code flags data).nmCount =
      s.nmCount := rfl
@[simp] theorem answer_faultInd (s : State) (code : RespCode) (flags : RespFlags) (data : List Word32) :
    (s.answer code flags data).faultInd =
      s.faultInd := rfl
@[simp] theorem answer_port (s : State) (code : RespCode) (flags : RespFlags) (data : List Word32) :
    (s.answer code flags data).port =
      s.port := rfl
@[simp] theorem answer_turns (s : State) (code : RespCode) (flags : RespFlags) (data : List Word32) :
    (s.answer code flags data).turns =
      s.turns := rfl
@[simp] theorem answer_burst (s : State) (code : RespCode) (flags : RespFlags) (data : List Word32) :
    (s.answer code flags data).burst =
      s.burst := rfl
@[simp] theorem answer_response (s : State) (code : RespCode) (flags : RespFlags) (data : List Word32) :
    (s.answer code flags data).response =
      some ⟨code, flags, data⟩ := rfl

/-! ### answerIllegal -/

@[simp] theorem answerIllegal_params (s : State) : (s.answerIllegal).params = s.params := rfl
@[simp] theorem answerIllegal_vcal (s : State) : (s.answerIllegal).vcal = s.vcal := rfl
@[simp] theorem answerIllegal_ical (s : State) : (s.answerIllegal).ical = s.ical := rfl
@[simp] theorem answerIllegal_phaseCal (s : State) : (s.answerIllegal).phaseCal = s.phaseCal := rfl
@[simp] theorem answerIllegal_energy (s : State) : (s.answerIllegal).energy = s.energy := rfl
@[simp] theorem answerIllegal_framesSinceReport (s : State) :
    (s.answerIllegal).framesSinceReport =
      s.framesSinceReport := rfl
@[simp] theorem answerIllegal_lastTimestampMs (s : State) :
    (s.answerIllegal).lastTimestampMs =
      s.lastTimestampMs := rfl
@[simp] theorem answerIllegal_tsValid (s : State) : (s.answerIllegal).tsValid = s.tsValid := rfl
@[simp] theorem answerIllegal_reportCycles (s : State) :
    (s.answerIllegal).reportCycles =
      s.reportCycles := rfl
@[simp] theorem answerIllegal_mainsFrequency (s : State) :
    (s.answerIllegal).mainsFrequency =
      s.mainsFrequency := rfl
@[simp] theorem answerIllegal_pfHold (s : State) : (s.answerIllegal).pfHold = s.pfHold := rfl
@[simp] theorem answerIllegal_asmFill (s : State) : (s.answerIllegal).asmFill = s.asmFill := rfl
@[simp] theorem answerIllegal_abuf (s : State) : (s.answerIllegal).abuf = s.abuf := rfl
@[simp] theorem answerIllegal_fslot (s : State) : (s.answerIllegal).fslot = s.fslot := rfl
@[simp] theorem answerIllegal_rslot (s : State) : (s.answerIllegal).rslot = s.rslot := rfl
@[simp] theorem answerIllegal_overrunCount (s : State) :
    (s.answerIllegal).overrunCount =
      s.overrunCount := rfl
@[simp] theorem answerIllegal_frameDropCount (s : State) :
    (s.answerIllegal).frameDropCount =
      s.frameDropCount := rfl
@[simp] theorem answerIllegal_reportDropCount (s : State) :
    (s.answerIllegal).reportDropCount =
      s.reportDropCount := rfl
@[simp] theorem answerIllegal_nmCount (s : State) : (s.answerIllegal).nmCount = s.nmCount := rfl
@[simp] theorem answerIllegal_faultInd (s : State) : (s.answerIllegal).faultInd = s.faultInd := rfl
@[simp] theorem answerIllegal_port (s : State) : (s.answerIllegal).port = s.port := rfl
@[simp] theorem answerIllegal_turns (s : State) : (s.answerIllegal).turns = s.turns := rfl
@[simp] theorem answerIllegal_burst (s : State) : (s.answerIllegal).burst = s.burst := rfl
@[simp] theorem answerIllegal_response (s : State) :
    (s.answerIllegal).response =
      some ⟨.illegalCommand, {}, []⟩ := rfl

/-! ### putFrame -/

@[simp] theorem putFrame_params (s : State) (e : FrameEntry) : (putFrame s e).params = s.params := rfl
@[simp] theorem putFrame_vcal (s : State) (e : FrameEntry) : (putFrame s e).vcal = s.vcal := rfl
@[simp] theorem putFrame_ical (s : State) (e : FrameEntry) : (putFrame s e).ical = s.ical := rfl
@[simp] theorem putFrame_phaseCal (s : State) (e : FrameEntry) : (putFrame s e).phaseCal = s.phaseCal := rfl
@[simp] theorem putFrame_energy (s : State) (e : FrameEntry) : (putFrame s e).energy = s.energy := rfl
@[simp] theorem putFrame_framesSinceReport (s : State) (e : FrameEntry) :
    (putFrame s e).framesSinceReport =
      s.framesSinceReport := rfl
@[simp] theorem putFrame_lastTimestampMs (s : State) (e : FrameEntry) :
    (putFrame s e).lastTimestampMs =
      s.lastTimestampMs := rfl
@[simp] theorem putFrame_tsValid (s : State) (e : FrameEntry) : (putFrame s e).tsValid = s.tsValid := rfl
@[simp] theorem putFrame_reportCycles (s : State) (e : FrameEntry) :
    (putFrame s e).reportCycles =
      s.reportCycles := rfl
@[simp] theorem putFrame_mainsFrequency (s : State) (e : FrameEntry) :
    (putFrame s e).mainsFrequency =
      s.mainsFrequency := rfl
@[simp] theorem putFrame_pfHold (s : State) (e : FrameEntry) : (putFrame s e).pfHold = s.pfHold := rfl
@[simp] theorem putFrame_asmFill (s : State) (e : FrameEntry) : (putFrame s e).asmFill = s.asmFill := rfl
@[simp] theorem putFrame_abuf (s : State) (e : FrameEntry) : (putFrame s e).abuf = s.abuf := rfl
@[simp] theorem putFrame_fslot (s : State) (e : FrameEntry) : (putFrame s e).fslot = some e := rfl
@[simp] theorem putFrame_rslot (s : State) (e : FrameEntry) : (putFrame s e).rslot = s.rslot := rfl
@[simp] theorem putFrame_overrunCount (s : State) (e : FrameEntry) :
    (putFrame s e).overrunCount =
      s.overrunCount := rfl
@[simp] theorem putFrame_frameDropCount (s : State) (e : FrameEntry) :
    (putFrame s e).frameDropCount =
      if s.fslot.isSome then satIncr s.frameDropCount else s.frameDropCount := rfl
@[simp] theorem putFrame_reportDropCount (s : State) (e : FrameEntry) :
    (putFrame s e).reportDropCount =
      s.reportDropCount := rfl
@[simp] theorem putFrame_nmCount (s : State) (e : FrameEntry) : (putFrame s e).nmCount = s.nmCount := rfl
@[simp] theorem putFrame_faultInd (s : State) (e : FrameEntry) :
    (putFrame s e).faultInd =
      if s.fslot.isSome then s.faultInd ||| 0b01#2 else s.faultInd := rfl
@[simp] theorem putFrame_port (s : State) (e : FrameEntry) : (putFrame s e).port = s.port := rfl
@[simp] theorem putFrame_turns (s : State) (e : FrameEntry) : (putFrame s e).turns = s.turns := rfl
@[simp] theorem putFrame_burst (s : State) (e : FrameEntry) : (putFrame s e).burst = s.burst := rfl
@[simp] theorem putFrame_response (s : State) (e : FrameEntry) : (putFrame s e).response = s.response := rfl

/-! ### putReport -/

@[simp] theorem putReport_params (s : State) (e : ReportEntry) : (putReport s e).params = s.params := rfl
@[simp] theorem putReport_vcal (s : State) (e : ReportEntry) : (putReport s e).vcal = s.vcal := rfl
@[simp] theorem putReport_ical (s : State) (e : ReportEntry) : (putReport s e).ical = s.ical := rfl
@[simp] theorem putReport_phaseCal (s : State) (e : ReportEntry) :
    (putReport s e).phaseCal =
      s.phaseCal := rfl
@[simp] theorem putReport_energy (s : State) (e : ReportEntry) : (putReport s e).energy = s.energy := rfl
@[simp] theorem putReport_framesSinceReport (s : State) (e : ReportEntry) :
    (putReport s e).framesSinceReport =
      s.framesSinceReport := rfl
@[simp] theorem putReport_lastTimestampMs (s : State) (e : ReportEntry) :
    (putReport s e).lastTimestampMs =
      s.lastTimestampMs := rfl
@[simp] theorem putReport_tsValid (s : State) (e : ReportEntry) : (putReport s e).tsValid = s.tsValid := rfl
@[simp] theorem putReport_reportCycles (s : State) (e : ReportEntry) :
    (putReport s e).reportCycles =
      s.reportCycles := rfl
@[simp] theorem putReport_mainsFrequency (s : State) (e : ReportEntry) :
    (putReport s e).mainsFrequency =
      s.mainsFrequency := rfl
@[simp] theorem putReport_pfHold (s : State) (e : ReportEntry) : (putReport s e).pfHold = s.pfHold := rfl
@[simp] theorem putReport_asmFill (s : State) (e : ReportEntry) : (putReport s e).asmFill = s.asmFill := rfl
@[simp] theorem putReport_abuf (s : State) (e : ReportEntry) : (putReport s e).abuf = s.abuf := rfl
@[simp] theorem putReport_fslot (s : State) (e : ReportEntry) : (putReport s e).fslot = s.fslot := rfl
@[simp] theorem putReport_rslot (s : State) (e : ReportEntry) : (putReport s e).rslot = some e := rfl
@[simp] theorem putReport_overrunCount (s : State) (e : ReportEntry) :
    (putReport s e).overrunCount =
      s.overrunCount := rfl
@[simp] theorem putReport_frameDropCount (s : State) (e : ReportEntry) :
    (putReport s e).frameDropCount =
      s.frameDropCount := rfl
@[simp] theorem putReport_reportDropCount (s : State) (e : ReportEntry) :
    (putReport s e).reportDropCount =
      if s.rslot.isSome then satIncr s.reportDropCount else s.reportDropCount := rfl
@[simp] theorem putReport_nmCount (s : State) (e : ReportEntry) : (putReport s e).nmCount = s.nmCount := rfl
@[simp] theorem putReport_faultInd (s : State) (e : ReportEntry) :
    (putReport s e).faultInd =
      if s.rslot.isSome then s.faultInd ||| 0b10#2 else s.faultInd := rfl
@[simp] theorem putReport_port (s : State) (e : ReportEntry) : (putReport s e).port = s.port := rfl
@[simp] theorem putReport_turns (s : State) (e : ReportEntry) : (putReport s e).turns = s.turns := rfl
@[simp] theorem putReport_burst (s : State) (e : ReportEntry) : (putReport s e).burst = s.burst := rfl
@[simp] theorem putReport_response (s : State) (e : ReportEntry) :
    (putReport s e).response =
      s.response := rfl

/-! ### useTurn -/

@[simp] theorem useTurn_params (s : State) : (useTurn s).params = s.params := rfl
@[simp] theorem useTurn_vcal (s : State) : (useTurn s).vcal = s.vcal := rfl
@[simp] theorem useTurn_ical (s : State) : (useTurn s).ical = s.ical := rfl
@[simp] theorem useTurn_phaseCal (s : State) : (useTurn s).phaseCal = s.phaseCal := rfl
@[simp] theorem useTurn_energy (s : State) : (useTurn s).energy = s.energy := rfl
@[simp] theorem useTurn_framesSinceReport (s : State) :
    (useTurn s).framesSinceReport =
      s.framesSinceReport := rfl
@[simp] theorem useTurn_lastTimestampMs (s : State) : (useTurn s).lastTimestampMs = s.lastTimestampMs := rfl
@[simp] theorem useTurn_tsValid (s : State) : (useTurn s).tsValid = s.tsValid := rfl
@[simp] theorem useTurn_reportCycles (s : State) : (useTurn s).reportCycles = s.reportCycles := rfl
@[simp] theorem useTurn_mainsFrequency (s : State) : (useTurn s).mainsFrequency = s.mainsFrequency := rfl
@[simp] theorem useTurn_pfHold (s : State) : (useTurn s).pfHold = s.pfHold := rfl
@[simp] theorem useTurn_asmFill (s : State) : (useTurn s).asmFill = s.asmFill := rfl
@[simp] theorem useTurn_abuf (s : State) : (useTurn s).abuf = s.abuf := rfl
@[simp] theorem useTurn_fslot (s : State) : (useTurn s).fslot = s.fslot := rfl
@[simp] theorem useTurn_rslot (s : State) : (useTurn s).rslot = s.rslot := rfl
@[simp] theorem useTurn_overrunCount (s : State) : (useTurn s).overrunCount = s.overrunCount := rfl
@[simp] theorem useTurn_frameDropCount (s : State) : (useTurn s).frameDropCount = s.frameDropCount := rfl
@[simp] theorem useTurn_reportDropCount (s : State) : (useTurn s).reportDropCount = s.reportDropCount := rfl
@[simp] theorem useTurn_nmCount (s : State) : (useTurn s).nmCount = s.nmCount := rfl
@[simp] theorem useTurn_faultInd (s : State) : (useTurn s).faultInd = s.faultInd := rfl
@[simp] theorem useTurn_port (s : State) : (useTurn s).port = s.port := rfl
@[simp] theorem useTurn_turns (s : State) : (useTurn s).turns = s.turns.tail := rfl
@[simp] theorem useTurn_burst (s : State) : (useTurn s).burst = s.burst := rfl
@[simp] theorem useTurn_response (s : State) : (useTurn s).response = s.response := rfl

/-! ### consumeWord -/

@[simp] theorem consumeWord_params (s : State) : (consumeWord s).params = s.params := rfl
@[simp] theorem consumeWord_vcal (s : State) : (consumeWord s).vcal = s.vcal := rfl
@[simp] theorem consumeWord_ical (s : State) : (consumeWord s).ical = s.ical := rfl
@[simp] theorem consumeWord_phaseCal (s : State) : (consumeWord s).phaseCal = s.phaseCal := rfl
@[simp] theorem consumeWord_energy (s : State) : (consumeWord s).energy = s.energy := rfl
@[simp] theorem consumeWord_framesSinceReport (s : State) :
    (consumeWord s).framesSinceReport =
      s.framesSinceReport := rfl
@[simp] theorem consumeWord_lastTimestampMs (s : State) :
    (consumeWord s).lastTimestampMs =
      s.lastTimestampMs := rfl
@[simp] theorem consumeWord_tsValid (s : State) : (consumeWord s).tsValid = s.tsValid := rfl
@[simp] theorem consumeWord_reportCycles (s : State) : (consumeWord s).reportCycles = s.reportCycles := rfl
@[simp] theorem consumeWord_mainsFrequency (s : State) :
    (consumeWord s).mainsFrequency =
      s.mainsFrequency := rfl
@[simp] theorem consumeWord_pfHold (s : State) : (consumeWord s).pfHold = s.pfHold := rfl
@[simp] theorem consumeWord_asmFill (s : State) : (consumeWord s).asmFill = s.asmFill := rfl
@[simp] theorem consumeWord_abuf (s : State) : (consumeWord s).abuf = s.abuf := rfl
@[simp] theorem consumeWord_fslot (s : State) : (consumeWord s).fslot = s.fslot := rfl
@[simp] theorem consumeWord_rslot (s : State) : (consumeWord s).rslot = s.rslot := rfl
@[simp] theorem consumeWord_overrunCount (s : State) : (consumeWord s).overrunCount = s.overrunCount := rfl
@[simp] theorem consumeWord_frameDropCount (s : State) :
    (consumeWord s).frameDropCount =
      s.frameDropCount := rfl
@[simp] theorem consumeWord_reportDropCount (s : State) :
    (consumeWord s).reportDropCount =
      s.reportDropCount := rfl
@[simp] theorem consumeWord_nmCount (s : State) : (consumeWord s).nmCount = s.nmCount := rfl
@[simp] theorem consumeWord_faultInd (s : State) : (consumeWord s).faultInd = s.faultInd := rfl
@[simp] theorem consumeWord_port (s : State) : (consumeWord s).port = s.port.tail := rfl
@[simp] theorem consumeWord_turns (s : State) : (consumeWord s).turns = s.turns := rfl
@[simp] theorem consumeWord_burst (s : State) : (consumeWord s).burst = s.burst := rfl
@[simp] theorem consumeWord_response (s : State) : (consumeWord s).response = s.response := rfl

/-! ### updateEngine -/

@[simp] theorem updateEngine_params (s : State) (N : Numerics) (F : List Code) (ts : Timestamp) :
    (updateEngine N s F ts).params =
      s.params := rfl
@[simp] theorem updateEngine_vcal (s : State) (N : Numerics) (F : List Code) (ts : Timestamp) :
    (updateEngine N s F ts).vcal =
      s.vcal := rfl
@[simp] theorem updateEngine_ical (s : State) (N : Numerics) (F : List Code) (ts : Timestamp) :
    (updateEngine N s F ts).ical =
      s.ical := rfl
@[simp] theorem updateEngine_phaseCal (s : State) (N : Numerics) (F : List Code) (ts : Timestamp) :
    (updateEngine N s F ts).phaseCal =
      s.phaseCal := rfl
@[simp] theorem updateEngine_energy (s : State) (N : Numerics) (F : List Code) (ts : Timestamp) :
    (updateEngine N s F ts).energy =
      (channelResults N s F ts).map (·.energy) := rfl
@[simp] theorem updateEngine_framesSinceReport (s : State) (N : Numerics) (F : List Code) (ts : Timestamp) :
    (updateEngine N s F ts).framesSinceReport =
      if emits s then 0#32 else s.framesSinceReport + 1#32 := rfl
@[simp] theorem updateEngine_lastTimestampMs (s : State) (N : Numerics) (F : List Code) (ts : Timestamp) :
    (updateEngine N s F ts).lastTimestampMs =
      ts := rfl
@[simp] theorem updateEngine_tsValid (s : State) (N : Numerics) (F : List Code) (ts : Timestamp) :
    (updateEngine N s F ts).tsValid =
      true := rfl
@[simp] theorem updateEngine_reportCycles (s : State) (N : Numerics) (F : List Code) (ts : Timestamp) :
    (updateEngine N s F ts).reportCycles =
      s.reportCycles := rfl
@[simp] theorem updateEngine_mainsFrequency (s : State) (N : Numerics) (F : List Code) (ts : Timestamp) :
    (updateEngine N s F ts).mainsFrequency =
      s.mainsFrequency := rfl
@[simp] theorem updateEngine_pfHold (s : State) (N : Numerics) (F : List Code) (ts : Timestamp) :
    (updateEngine N s F ts).pfHold =
      (channelResults N s F ts).map (·.hold) := rfl
@[simp] theorem updateEngine_asmFill (s : State) (N : Numerics) (F : List Code) (ts : Timestamp) :
    (updateEngine N s F ts).asmFill =
      s.asmFill := rfl
@[simp] theorem updateEngine_abuf (s : State) (N : Numerics) (F : List Code) (ts : Timestamp) :
    (updateEngine N s F ts).abuf =
      s.abuf := rfl
@[simp] theorem updateEngine_fslot (s : State) (N : Numerics) (F : List Code) (ts : Timestamp) :
    (updateEngine N s F ts).fslot =
      s.fslot := rfl
@[simp] theorem updateEngine_rslot (s : State) (N : Numerics) (F : List Code) (ts : Timestamp) :
    (updateEngine N s F ts).rslot =
      s.rslot := rfl
@[simp] theorem updateEngine_overrunCount (s : State) (N : Numerics) (F : List Code) (ts : Timestamp) :
    (updateEngine N s F ts).overrunCount =
      s.overrunCount := rfl
@[simp] theorem updateEngine_frameDropCount (s : State) (N : Numerics) (F : List Code) (ts : Timestamp) :
    (updateEngine N s F ts).frameDropCount =
      s.frameDropCount := rfl
@[simp] theorem updateEngine_reportDropCount (s : State) (N : Numerics) (F : List Code) (ts : Timestamp) :
    (updateEngine N s F ts).reportDropCount =
      s.reportDropCount := rfl
@[simp] theorem updateEngine_nmCount (s : State) (N : Numerics) (F : List Code) (ts : Timestamp) :
    (updateEngine N s F ts).nmCount =
      if (elapsed N s ts).isNonMonotonic then satIncr s.nmCount else s.nmCount := rfl
@[simp] theorem updateEngine_faultInd (s : State) (N : Numerics) (F : List Code) (ts : Timestamp) :
    (updateEngine N s F ts).faultInd =
      s.faultInd := rfl
@[simp] theorem updateEngine_port (s : State) (N : Numerics) (F : List Code) (ts : Timestamp) :
    (updateEngine N s F ts).port =
      s.port := rfl
@[simp] theorem updateEngine_turns (s : State) (N : Numerics) (F : List Code) (ts : Timestamp) :
    (updateEngine N s F ts).turns =
      s.turns := rfl
@[simp] theorem updateEngine_burst (s : State) (N : Numerics) (F : List Code) (ts : Timestamp) :
    (updateEngine N s F ts).burst =
      s.burst := rfl
@[simp] theorem updateEngine_response (s : State) (N : Numerics) (F : List Code) (ts : Timestamp) :
    (updateEngine N s F ts).response =
      s.response := rfl

end Sys2Proof.Machine
end

