-- ==== Sys2Proof/Laws/Ops.lean ====
section
/-! SUPPORT. For each shared operation, once, everything it can do; and what PROCESS_FRAME and the operations over it
leave alone, field by field (spec/45_process_frame.md R229). -/

namespace Sys2Proof.Machine

/-! ### The numerics record of an instance -/

/-- An instance that names the default record runs it (R150). -/
theorem numericsOf_ieee754 {p : Params} (h : p.numerics = .ieee754) : numericsOf p = defaultNumerics := by
  simp [numericsOf, h]

/-- An instance that names another backend runs that backend's record, of which nothing is known (R150, U4). -/
theorem numericsOf_backend {p : Params} {id : Nat} (h : p.numerics = .backend id) :
    numericsOf p = Config.backendRecord id := by
  simp [numericsOf, h]

/-! ### PROCESS_FRAME -/

theorem processFrame_short {N : Numerics} {s : State} {F : List Code} {ts : Timestamp}
    (h : F.length < s.params.vctTotal) : processFrame N s F ts = ⟨s, .insufficientSamples, {}⟩ := by
  unfold processFrame; rw [if_pos h]

theorem processFrame_accepted {N : Numerics} {s : State} {F : List Code} {ts : Timestamp}
    (h : s.params.vctTotal ≤ F.length) : processFrame N s F ts = acceptFrame N s F ts := by
  unfold processFrame; rw [if_neg (Nat.not_lt.2 h)]

theorem processFrame_cases (N : Numerics) (s : State) (F : List Code) (ts : Timestamp) :
    (F.length < s.params.vctTotal ∧ processFrame N s F ts = ⟨s, .insufficientSamples, {}⟩) ∨
    (s.params.vctTotal ≤ F.length ∧ processFrame N s F ts = acceptFrame N s F ts) := by
  rcases Nat.lt_or_ge F.length s.params.vctTotal with h | h
  · exact Or.inl ⟨h, processFrame_short h⟩
  · exact Or.inr ⟨h, processFrame_accepted h⟩

theorem acceptFrame_state_emitting {N : Numerics} {s : State} {F : List Code} {ts : Timestamp} (h : emits s = true) :
    (acceptFrame N s F ts).state = putReport (updateEngine N s F ts) ⟨assembleReport N s F ts, ts⟩ := by
  simp [acceptFrame, h]

theorem acceptFrame_state_silent {N : Numerics} {s : State} {F : List Code} {ts : Timestamp} (h : emits s = false) :
    (acceptFrame N s F ts).state = updateEngine N s F ts := by
  simp [acceptFrame, h]

@[simp] theorem acceptFrame_params (N : Numerics) (s : State) (F : List Code) (ts : Timestamp) :
    (acceptFrame N s F ts).state.params = s.params := by
  unfold acceptFrame; cases emits s <;> rfl

@[simp] theorem acceptFrame_vcal (N : Numerics) (s : State) (F : List Code) (ts : Timestamp) :
    (acceptFrame N s F ts).state.vcal = s.vcal := by
  unfold acceptFrame; cases emits s <;> rfl

@[simp] theorem acceptFrame_ical (N : Numerics) (s : State) (F : List Code) (ts : Timestamp) :
    (acceptFrame N s F ts).state.ical = s.ical := by
  unfold acceptFrame; cases emits s <;> rfl

@[simp] theorem acceptFrame_phaseCal (N : Numerics) (s : State) (F : List Code) (ts : Timestamp) :
    (acceptFrame N s F ts).state.phaseCal = s.phaseCal := by
  unfold acceptFrame; cases emits s <;> rfl

@[simp] theorem acceptFrame_energy (N : Numerics) (s : State) (F : List Code) (ts : Timestamp) :
    (acceptFrame N s F ts).state.energy = (channelResults N s F ts).map (·.energy) := by
  unfold acceptFrame; cases emits s <;> rfl

@[simp] theorem acceptFrame_framesSinceReport (N : Numerics) (s : State) (F : List Code) (ts : Timestamp) :
    (acceptFrame N s F ts).state.framesSinceReport = if emits s then 0#32 else s.framesSinceReport + 1#32 := by
  unfold acceptFrame; cases h : emits s <;> simp [h]

@[simp] theorem acceptFrame_lastTimestampMs (N : Numerics) (s : State) (F : List Code) (ts : Timestamp) :
    (acceptFrame N s F ts).state.lastTimestampMs = ts := by
  unfold acceptFrame; cases emits s <;> rfl

@[simp] theorem acceptFrame_tsValid (N : Numerics) (s : State) (F : List Code) (ts : Timestamp) :
    (acceptFrame N s F ts).state.tsValid = true := by
  unfold acceptFrame; cases emits s <;> rfl

@[simp] theorem acceptFrame_reportCycles (N : Numerics) (s : State) (F : List Code) (ts : Timestamp) :
    (acceptFrame N s F ts).state.reportCycles = s.reportCycles := by
  unfold acceptFrame; cases emits s <;> rfl

@[simp] theorem acceptFrame_mainsFrequency (N : Numerics) (s : State) (F : List Code) (ts : Timestamp) :
    (acceptFrame N s F ts).state.mainsFrequency = s.mainsFrequency := by
  unfold acceptFrame; cases emits s <;> rfl

@[simp] theorem acceptFrame_pfHold (N : Numerics) (s : State) (F : List Code) (ts : Timestamp) :
    (acceptFrame N s F ts).state.pfHold = (channelResults N s F ts).map (·.hold) := by
  unfold acceptFrame; cases emits s <;> rfl

@[simp] theorem acceptFrame_asmFill (N : Numerics) (s : State) (F : List Code) (ts : Timestamp) :
    (acceptFrame N s F ts).state.asmFill = s.asmFill := by
  unfold acceptFrame; cases emits s <;> rfl

@[simp] theorem acceptFrame_abuf (N : Numerics) (s : State) (F : List Code) (ts : Timestamp) :
    (acceptFrame N s F ts).state.abuf = s.abuf := by
  unfold acceptFrame; cases emits s <;> rfl

@[simp] theorem acceptFrame_fslot (N : Numerics) (s : State) (F : List Code) (ts : Timestamp) :
    (acceptFrame N s F ts).state.fslot = s.fslot := by
  unfold acceptFrame; cases emits s <;> rfl

@[simp] theorem acceptFrame_rslot (N : Numerics) (s : State) (F : List Code) (ts : Timestamp) :
    (acceptFrame N s F ts).state.rslot = if emits s then some ⟨assembleReport N s F ts, ts⟩ else s.rslot := by
  unfold acceptFrame; cases emits s <;> rfl

@[simp] theorem acceptFrame_overrunCount (N : Numerics) (s : State) (F : List Code) (ts : Timestamp) :
    (acceptFrame N s F ts).state.overrunCount = s.overrunCount := by
  unfold acceptFrame; cases emits s <;> rfl

@[simp] theorem acceptFrame_frameDropCount (N : Numerics) (s : State) (F : List Code) (ts : Timestamp) :
    (acceptFrame N s F ts).state.frameDropCount = s.frameDropCount := by
  unfold acceptFrame; cases emits s <;> rfl

@[simp] theorem acceptFrame_reportDropCount (N : Numerics) (s : State) (F : List Code) (ts : Timestamp) :
    (acceptFrame N s F ts).state.reportDropCount = if emits s && s.rslot.isSome then satIncr s.reportDropCount else s.reportDropCount := by
  unfold acceptFrame; cases emits s <;> rfl

@[simp] theorem acceptFrame_nmCount (N : Numerics) (s : State) (F : List Code) (ts : Timestamp) :
    (acceptFrame N s F ts).state.nmCount = if (elapsed N s ts).isNonMonotonic then satIncr s.nmCount else s.nmCount := by
  unfold acceptFrame; cases emits s <;> rfl

@[simp] theorem acceptFrame_faultInd (N : Numerics) (s : State) (F : List Code) (ts : Timestamp) :
    (acceptFrame N s F ts).state.faultInd = if emits s && s.rslot.isSome then s.faultInd ||| 0b10#2 else s.faultInd := by
  unfold acceptFrame; cases emits s <;> rfl

@[simp] theorem acceptFrame_port (N : Numerics) (s : State) (F : List Code) (ts : Timestamp) :
    (acceptFrame N s F ts).state.port = s.port := by
  unfold acceptFrame; cases emits s <;> rfl

@[simp] theorem acceptFrame_turns (N : Numerics) (s : State) (F : List Code) (ts : Timestamp) :
    (acceptFrame N s F ts).state.turns = s.turns := by
  unfold acceptFrame; cases emits s <;> rfl

@[simp] theorem acceptFrame_burst (N : Numerics) (s : State) (F : List Code) (ts : Timestamp) :
    (acceptFrame N s F ts).state.burst = s.burst := by
  unfold acceptFrame; cases emits s <;> rfl

@[simp] theorem acceptFrame_response (N : Numerics) (s : State) (F : List Code) (ts : Timestamp) :
    (acceptFrame N s F ts).state.response = s.response := by
  unfold acceptFrame; cases emits s <;> rfl

/-! ### What R229 says an accepted or refused frame never touches -/

@[simp] theorem processFrame_params (N : Numerics) (s : State) (F : List Code) (ts : Timestamp) :
    (processFrame N s F ts).state.params = s.params := by
  unfold processFrame; split <;> simp

@[simp] theorem processFrame_vcal (N : Numerics) (s : State) (F : List Code) (ts : Timestamp) :
    (processFrame N s F ts).state.vcal = s.vcal := by
  unfold processFrame; split <;> simp

@[simp] theorem processFrame_ical (N : Numerics) (s : State) (F : List Code) (ts : Timestamp) :
    (processFrame N s F ts).state.ical = s.ical := by
  unfold processFrame; split <;> simp

@[simp] theorem processFrame_phaseCal (N : Numerics) (s : State) (F : List Code) (ts : Timestamp) :
    (processFrame N s F ts).state.phaseCal = s.phaseCal := by
  unfold processFrame; split <;> simp

@[simp] theorem processFrame_reportCycles (N : Numerics) (s : State) (F : List Code) (ts : Timestamp) :
    (processFrame N s F ts).state.reportCycles = s.reportCycles := by
  unfold processFrame; split <;> simp

@[simp] theorem processFrame_mainsFrequency (N : Numerics) (s : State) (F : List Code) (ts : Timestamp) :
    (processFrame N s F ts).state.mainsFrequency = s.mainsFrequency := by
  unfold processFrame; split <;> simp

@[simp] theorem processFrame_asmFill (N : Numerics) (s : State) (F : List Code) (ts : Timestamp) :
    (processFrame N s F ts).state.asmFill = s.asmFill := by
  unfold processFrame; split <;> simp

@[simp] theorem processFrame_abuf (N : Numerics) (s : State) (F : List Code) (ts : Timestamp) :
    (processFrame N s F ts).state.abuf = s.abuf := by
  unfold processFrame; split <;> simp

@[simp] theorem processFrame_fslot (N : Numerics) (s : State) (F : List Code) (ts : Timestamp) :
    (processFrame N s F ts).state.fslot = s.fslot := by
  unfold processFrame; split <;> simp

@[simp] theorem processFrame_overrunCount (N : Numerics) (s : State) (F : List Code) (ts : Timestamp) :
    (processFrame N s F ts).state.overrunCount = s.overrunCount := by
  unfold processFrame; split <;> simp

@[simp] theorem processFrame_frameDropCount (N : Numerics) (s : State) (F : List Code) (ts : Timestamp) :
    (processFrame N s F ts).state.frameDropCount = s.frameDropCount := by
  unfold processFrame; split <;> simp

@[simp] theorem processFrame_port (N : Numerics) (s : State) (F : List Code) (ts : Timestamp) :
    (processFrame N s F ts).state.port = s.port := by
  unfold processFrame; split <;> simp

@[simp] theorem processFrame_turns (N : Numerics) (s : State) (F : List Code) (ts : Timestamp) :
    (processFrame N s F ts).state.turns = s.turns := by
  unfold processFrame; split <;> simp

@[simp] theorem processFrame_burst (N : Numerics) (s : State) (F : List Code) (ts : Timestamp) :
    (processFrame N s F ts).state.burst = s.burst := by
  unfold processFrame; split <;> simp

@[simp] theorem processFrame_response (N : Numerics) (s : State) (F : List Code) (ts : Timestamp) :
    (processFrame N s F ts).state.response = s.response := by
  unfold processFrame; split <;> simp

/-! ### What PROCESS_FRAME does not read -/

/-- PROCESS_FRAME reads neither the sequencer nor the frame slot nor the ports: it commutes with any change of them
(R229, R71). -/
theorem processFrame_update (N : Numerics) (s : State) (F : List Code) (ts : Timestamp) (fill : Nat) (buf : List Code)
    (fs : Option FrameEntry) (ov fd : Word32) (pt : List CommandWord) (tn : List Turn) (bu : Option Burst)
    (rs : Option Response) :
    processFrame N { s with
        asmFill := fill, abuf := buf, fslot := fs, overrunCount := ov, frameDropCount := fd, port := pt, turns := tn,
        burst := bu, response := rs } F ts =
      { processFrame N s F ts with
        state := { (processFrame N s F ts).state with
          asmFill := fill, abuf := buf, fslot := fs, overrunCount := ov, frameDropCount := fd, port := pt, turns := tn,
          burst := bu, response := rs } } := by
  unfold processFrame
  by_cases h : F.length < s.params.vctTotal
  · simp only [h, if_true]
  · simp only [h, if_false]
    unfold acceptFrame
    rw [show ∀ x : State, x.framesSinceReport = s.framesSinceReport → x.reportCycles = s.reportCycles →
      emits x = emits s from fun x h1 h2 => by simp [emits, h1, h2]]
    · cases emits s <;> rfl
    all_goals rfl

/-! ### The burst -/

/-- `finishFrame` either answers `ILLEGAL_COMMAND` or runs PROCESS_FRAME and answers its outcome (R94, R230). -/
theorem finishFrame_cases (s : State) (b : Burst) :
    (b.malformed = true ∧ finishFrame s b = s.answerIllegal) ∨
    (b.malformed = false ∧ finishFrame s b =
      ((processFrame (numericsOf s.params) s b.codes b.ts).state.answer
        (processFrame (numericsOf s.params) s b.codes b.ts).code
        (processFrame (numericsOf s.params) s b.codes b.ts).flags [])) := by
  unfold finishFrame
  cases h : b.malformed
  · exact Or.inr ⟨rfl, by simp⟩
  · exact Or.inl ⟨rfl, by simp⟩

/-- A data word either leaves the burst open, with one word less to come, or closes it and finishes the command (R94). -/
theorem takeDataWord_cases (s : State) (b : Burst) (d : Option Code) :
    (b.remaining ≤ 1 ∧ takeDataWord s b d =
      finishFrame { s with burst := none } ⟨b.remaining - 1, b.ts, b.codes ++ d.toList, b.malformed || d.isNone⟩) ∨
    (1 < b.remaining ∧ takeDataWord s b d =
      { s with burst := some ⟨b.remaining - 1, b.ts, b.codes ++ d.toList, b.malformed || d.isNone⟩, response := none }) := by
  unfold takeDataWord
  simp only
  rcases Nat.lt_or_ge 1 b.remaining with h | h
  · exact Or.inr ⟨h, by rw [if_neg (by omega)]⟩
  · exact Or.inl ⟨h, by rw [if_pos (by omega)]⟩

/-- A rejected word is a malformed data word inside a burst and an illegal command outside one (R94, R96). -/
theorem rejectWord_cases (s : State) :
    (s.burst = none ∧ rejectWord s = s.answerIllegal) ∨
    (∃ b, s.burst = some b ∧ rejectWord s = takeDataWord s b none) := by
  unfold rejectWord
  cases h : s.burst with
  | none => exact Or.inl ⟨rfl, rfl⟩
  | some b => exact Or.inr ⟨b, rfl, rfl⟩

@[simp] theorem finishFrame_params (s : State) (b : Burst) :
    (finishFrame s b).params = s.params := by
  unfold finishFrame; split <;> simp

@[simp] theorem finishFrame_vcal (s : State) (b : Burst) :
    (finishFrame s b).vcal = s.vcal := by
  unfold finishFrame; split <;> simp

@[simp] theorem finishFrame_ical (s : State) (b : Burst) :
    (finishFrame s b).ical = s.ical := by
  unfold finishFrame; split <;> simp

@[simp] theorem finishFrame_phaseCal (s : State) (b : Burst) :
    (finishFrame s b).phaseCal = s.phaseCal := by
  unfold finishFrame; split <;> simp

@[simp] theorem finishFrame_reportCycles (s : State) (b : Burst) :
    (finishFrame s b).reportCycles = s.reportCycles := by
  unfold finishFrame; split <;> simp

@[simp] theorem finishFrame_mainsFrequency (s : State) (b : Burst) :
    (finishFrame s b).mainsFrequency = s.mainsFrequency := by
  unfold finishFrame; split <;> simp

@[simp] theorem finishFrame_asmFill (s : State) (b : Burst) :
    (finishFrame s b).asmFill = s.asmFill := by
  unfold finishFrame; split <;> simp

@[simp] theorem finishFrame_abuf (s : State) (b : Burst) :
    (finishFrame s b).abuf = s.abuf := by
  unfold finishFrame; split <;> simp

@[simp] theorem finishFrame_fslot (s : State) (b : Burst) :
    (finishFrame s b).fslot = s.fslot := by
  unfold finishFrame; split <;> simp

@[simp] theorem finishFrame_overrunCount (s : State) (b : Burst) :
    (finishFrame s b).overrunCount = s.overrunCount := by
  unfold finishFrame; split <;> simp

@[simp] theorem finishFrame_frameDropCount (s : State) (b : Burst) :
    (finishFrame s b).frameDropCount = s.frameDropCount := by
  unfold finishFrame; split <;> simp

@[simp] theorem finishFrame_port (s : State) (b : Burst) :
    (finishFrame s b).port = s.port := by
  unfold finishFrame; split <;> simp

@[simp] theorem finishFrame_turns (s : State) (b : Burst) :
    (finishFrame s b).turns = s.turns := by
  unfold finishFrame; split <;> simp

@[simp] theorem openBurst_params (s : State) (len : Nat) (ts : Timestamp) :
    (openBurst s len ts).params = s.params := by
  unfold openBurst; split <;> simp

@[simp] theorem openBurst_vcal (s : State) (len : Nat) (ts : Timestamp) :
    (openBurst s len ts).vcal = s.vcal := by
  unfold openBurst; split <;> simp

@[simp] theorem openBurst_ical (s : State) (len : Nat) (ts : Timestamp) :
    (openBurst s len ts).ical = s.ical := by
  unfold openBurst; split <;> simp

@[simp] theorem openBurst_phaseCal (s : State) (len : Nat) (ts : Timestamp) :
    (openBurst s len ts).phaseCal = s.phaseCal := by
  unfold openBurst; split <;> simp

@[simp] theorem openBurst_reportCycles (s : State) (len : Nat) (ts : Timestamp) :
    (openBurst s len ts).reportCycles = s.reportCycles := by
  unfold openBurst; split <;> simp

@[simp] theorem openBurst_mainsFrequency (s : State) (len : Nat) (ts : Timestamp) :
    (openBurst s len ts).mainsFrequency = s.mainsFrequency := by
  unfold openBurst; split <;> simp

@[simp] theorem openBurst_asmFill (s : State) (len : Nat) (ts : Timestamp) :
    (openBurst s len ts).asmFill = s.asmFill := by
  unfold openBurst; split <;> simp

@[simp] theorem openBurst_abuf (s : State) (len : Nat) (ts : Timestamp) :
    (openBurst s len ts).abuf = s.abuf := by
  unfold openBurst; split <;> simp

@[simp] theorem openBurst_fslot (s : State) (len : Nat) (ts : Timestamp) :
    (openBurst s len ts).fslot = s.fslot := by
  unfold openBurst; split <;> simp

@[simp] theorem openBurst_overrunCount (s : State) (len : Nat) (ts : Timestamp) :
    (openBurst s len ts).overrunCount = s.overrunCount := by
  unfold openBurst; split <;> simp

@[simp] theorem openBurst_frameDropCount (s : State) (len : Nat) (ts : Timestamp) :
    (openBurst s len ts).frameDropCount = s.frameDropCount := by
  unfold openBurst; split <;> simp

@[simp] theorem openBurst_port (s : State) (len : Nat) (ts : Timestamp) :
    (openBurst s len ts).port = s.port := by
  unfold openBurst; split <;> simp

@[simp] theorem openBurst_turns (s : State) (len : Nat) (ts : Timestamp) :
    (openBurst s len ts).turns = s.turns := by
  unfold openBurst; split <;> simp

@[simp] theorem takeDataWord_params (s : State) (b : Burst) (d : Option Code) :
    (takeDataWord s b d).params = s.params := by
  unfold takeDataWord; simp only; split <;> simp

@[simp] theorem takeDataWord_vcal (s : State) (b : Burst) (d : Option Code) :
    (takeDataWord s b d).vcal = s.vcal := by
  unfold takeDataWord; simp only; split <;> simp

@[simp] theorem takeDataWord_ical (s : State) (b : Burst) (d : Option Code) :
    (takeDataWord s b d).ical = s.ical := by
  unfold takeDataWord; simp only; split <;> simp

@[simp] theorem takeDataWord_phaseCal (s : State) (b : Burst) (d : Option Code) :
    (takeDataWord s b d).phaseCal = s.phaseCal := by
  unfold takeDataWord; simp only; split <;> simp

@[simp] theorem takeDataWord_reportCycles (s : State) (b : Burst) (d : Option Code) :
    (takeDataWord s b d).reportCycles = s.reportCycles := by
  unfold takeDataWord; simp only; split <;> simp

@[simp] theorem takeDataWord_mainsFrequency (s : State) (b : Burst) (d : Option Code) :
    (takeDataWord s b d).mainsFrequency = s.mainsFrequency := by
  unfold takeDataWord; simp only; split <;> simp

@[simp] theorem takeDataWord_asmFill (s : State) (b : Burst) (d : Option Code) :
    (takeDataWord s b d).asmFill = s.asmFill := by
  unfold takeDataWord; simp only; split <;> simp

@[simp] theorem takeDataWord_abuf (s : State) (b : Burst) (d : Option Code) :
    (takeDataWord s b d).abuf = s.abuf := by
  unfold takeDataWord; simp only; split <;> simp

@[simp] theorem takeDataWord_fslot (s : State) (b : Burst) (d : Option Code) :
    (takeDataWord s b d).fslot = s.fslot := by
  unfold takeDataWord; simp only; split <;> simp

@[simp] theorem takeDataWord_overrunCount (s : State) (b : Burst) (d : Option Code) :
    (takeDataWord s b d).overrunCount = s.overrunCount := by
  unfold takeDataWord; simp only; split <;> simp

@[simp] theorem takeDataWord_frameDropCount (s : State) (b : Burst) (d : Option Code) :
    (takeDataWord s b d).frameDropCount = s.frameDropCount := by
  unfold takeDataWord; simp only; split <;> simp

@[simp] theorem takeDataWord_port (s : State) (b : Burst) (d : Option Code) :
    (takeDataWord s b d).port = s.port := by
  unfold takeDataWord; simp only; split <;> simp

@[simp] theorem takeDataWord_turns (s : State) (b : Burst) (d : Option Code) :
    (takeDataWord s b d).turns = s.turns := by
  unfold takeDataWord; simp only; split <;> simp

@[simp] theorem rejectWord_params (s : State) :
    (rejectWord s).params = s.params := by
  unfold rejectWord; split <;> simp

@[simp] theorem rejectWord_vcal (s : State) :
    (rejectWord s).vcal = s.vcal := by
  unfold rejectWord; split <;> simp

@[simp] theorem rejectWord_ical (s : State) :
    (rejectWord s).ical = s.ical := by
  unfold rejectWord; split <;> simp

@[simp] theorem rejectWord_phaseCal (s : State) :
    (rejectWord s).phaseCal = s.phaseCal := by
  unfold rejectWord; split <;> simp

@[simp] theorem rejectWord_reportCycles (s : State) :
    (rejectWord s).reportCycles = s.reportCycles := by
  unfold rejectWord; split <;> simp

@[simp] theorem rejectWord_mainsFrequency (s : State) :
    (rejectWord s).mainsFrequency = s.mainsFrequency := by
  unfold rejectWord; split <;> simp

@[simp] theorem rejectWord_asmFill (s : State) :
    (rejectWord s).asmFill = s.asmFill := by
  unfold rejectWord; split <;> simp

@[simp] theorem rejectWord_abuf (s : State) :
    (rejectWord s).abuf = s.abuf := by
  unfold rejectWord; split <;> simp

@[simp] theorem rejectWord_fslot (s : State) :
    (rejectWord s).fslot = s.fslot := by
  unfold rejectWord; split <;> simp

@[simp] theorem rejectWord_overrunCount (s : State) :
    (rejectWord s).overrunCount = s.overrunCount := by
  unfold rejectWord; split <;> simp

@[simp] theorem rejectWord_frameDropCount (s : State) :
    (rejectWord s).frameDropCount = s.frameDropCount := by
  unfold rejectWord; split <;> simp

@[simp] theorem rejectWord_port (s : State) :
    (rejectWord s).port = s.port := by
  unfold rejectWord; split <;> simp

@[simp] theorem rejectWord_turns (s : State) :
    (rejectWord s).turns = s.turns := by
  unfold rejectWord; split <;> simp

@[simp] theorem finishFrame_burst (s : State) (b : Burst) : (finishFrame s b).burst = s.burst := by
  unfold finishFrame; split <;> simp

/-! ### The METER step -/

theorem meterTurn_idle {s : State} (h : s.fslot = none) : meterTurn s = s := by
  unfold meterTurn; rw [h]

theorem meterTurn_enabled {s : State} {e : FrameEntry} (h : s.fslot = some e) : meterTurn s =
    { (processFrame (numericsOf s.params) { s with fslot := none } e.frame e.ts).state with response := none } := by
  unfold meterTurn; rw [h]

@[simp] theorem meterTurn_params (s : State) : (meterTurn s).params = s.params := by
  unfold meterTurn; split <;> simp

@[simp] theorem meterTurn_vcal (s : State) : (meterTurn s).vcal = s.vcal := by
  unfold meterTurn; split <;> simp

@[simp] theorem meterTurn_ical (s : State) : (meterTurn s).ical = s.ical := by
  unfold meterTurn; split <;> simp

@[simp] theorem meterTurn_phaseCal (s : State) : (meterTurn s).phaseCal = s.phaseCal := by
  unfold meterTurn; split <;> simp

@[simp] theorem meterTurn_reportCycles (s : State) : (meterTurn s).reportCycles = s.reportCycles := by
  unfold meterTurn; split <;> simp

@[simp] theorem meterTurn_mainsFrequency (s : State) : (meterTurn s).mainsFrequency = s.mainsFrequency := by
  unfold meterTurn; split <;> simp

@[simp] theorem meterTurn_asmFill (s : State) : (meterTurn s).asmFill = s.asmFill := by
  unfold meterTurn; split <;> simp

@[simp] theorem meterTurn_abuf (s : State) : (meterTurn s).abuf = s.abuf := by
  unfold meterTurn; split <;> simp

@[simp] theorem meterTurn_overrunCount (s : State) : (meterTurn s).overrunCount = s.overrunCount := by
  unfold meterTurn; split <;> simp

@[simp] theorem meterTurn_frameDropCount (s : State) : (meterTurn s).frameDropCount = s.frameDropCount := by
  unfold meterTurn; split <;> simp

@[simp] theorem meterTurn_port (s : State) : (meterTurn s).port = s.port := by
  unfold meterTurn; split <;> simp

@[simp] theorem meterTurn_turns (s : State) : (meterTurn s).turns = s.turns := by
  unfold meterTurn; split <;> simp

@[simp] theorem meterTurn_burst (s : State) : (meterTurn s).burst = s.burst := by
  unfold meterTurn; split <;> simp

@[simp] theorem meterTurn_fslot (s : State) : (meterTurn s).fslot = none := by
  unfold meterTurn; split
  · assumption
  · simp

/-! ### Slots and counters -/

/-- A saturating counter never reads 0 after an increment (R144: "a non-zero count can never read as zero"). -/
theorem satIncr_ne_zero (x : Word32) : satIncr x ≠ 0#32 := by
  have hx := x.isLt
  intro h
  have := congrArg BitVec.toNat h
  simp only [satIncr, sat32, BitVec.toNat_ofNat] at this
  omega

theorem satIncr_toNat (x : Word32) : (satIncr x).toNat = min (x.toNat + 1) (2 ^ 32 - 1) := by
  have hx := x.isLt
  simp only [satIncr, sat32, BitVec.toNat_ofNat]
  omega

end Sys2Proof.Machine
end

