-- ==== Sys2Proof/Laws/PerInstr.lean ====
section
/-! SUPPORT. The per-instruction family `TableRow`: the word of every instruction carries the opcode of its row of
spec/opcode_table.json and zero in every field the row reserves. -/

namespace Sys2Proof.Laws

/-- The fields that the row's "source_fields" call reserved are 0. -/
def reservedZero (i : Instr) (w : CommandWord) : Prop :=
  match i with
  | .nop => fieldCh w = 0 ∧ fieldAux w = 0 ∧ fieldData w = 0
  | .push _ _ => fieldCh w = 0
  | .frame _ _ => fieldCh w = 0
  | .fdat _ => fieldCh w = 0 ∧ fieldData w = 0
  | .setv _ _ => fieldAux w = 0
  | .seti _ _ => fieldAux w = 0
  | .rste => fieldCh w = 0 ∧ fieldAux w = 0 ∧ fieldData w = 0
  | .gete => fieldCh w = 0 ∧ fieldAux w = 0 ∧ fieldData w = 0
  | .popr => fieldCh w = 0 ∧ fieldAux w = 0 ∧ fieldData w = 0
  | .ovrn => fieldCh w = 0 ∧ fieldAux w = 0 ∧ fieldData w = 0
  | .diag => fieldCh w = 0 ∧ fieldAux w = 0 ∧ fieldData w = 0

/-- The word of the instruction is a word of its row. -/
def TableRow.Statement (i : Instr) : Prop := fieldOp (encode i) = opcode i ∧ reservedZero i (encode i)

theorem TableRow.nop : TableRow.Statement .nop := by simp [TableRow.Statement, reservedZero, encode]
theorem TableRow.push (code : Code) (ts : Timestamp) : TableRow.Statement (.push code ts) := by
  simp [TableRow.Statement, reservedZero, encode]
theorem TableRow.frame (len : BitVec 16) (ts : Timestamp) : TableRow.Statement (.frame len ts) := by
  simp [TableRow.Statement, reservedZero, encode]
theorem TableRow.fdat (code : Code) : TableRow.Statement (.fdat code) := by
  simp [TableRow.Statement, reservedZero, encode]
theorem TableRow.setv (ch : BitVec 8) (scale : F32) : TableRow.Statement (.setv ch scale) := by
  simp [TableRow.Statement, reservedZero, encode]
theorem TableRow.seti (ch : BitVec 8) (scale : F32) : TableRow.Statement (.seti ch scale) := by
  simp [TableRow.Statement, reservedZero, encode]
theorem TableRow.rste : TableRow.Statement .rste := by simp [TableRow.Statement, reservedZero, encode]
theorem TableRow.gete : TableRow.Statement .gete := by simp [TableRow.Statement, reservedZero, encode]
theorem TableRow.popr : TableRow.Statement .popr := by simp [TableRow.Statement, reservedZero, encode]
theorem TableRow.ovrn : TableRow.Statement .ovrn := by simp [TableRow.Statement, reservedZero, encode]
theorem TableRow.diag : TableRow.Statement .diag := by simp [TableRow.Statement, reservedZero, encode]

end Sys2Proof.Laws
end

