-- ==== Sys2Proof/Laws/Rounding.lean ====
section
/-! SUPPORT. What `roundMag` computes: the correctly rounded magnitude of `m * 2^e` (spec/41_arithmetic.md R152). The
theorem to cite is `roundsTo_withSign_roundMag`. -/

namespace Sys2Proof.Machine

/-- The grid value at `r` is a nearest one to `x`, and the even one of a tie. -/
def GridNear (x : ℝ) (r : Nat) : Prop :=
  ∀ c : Nat, |x - (gridValue r : ℝ)| ≤ |x - (gridValue c : ℝ)| ∧
    (|x - (gridValue r : ℝ)| = |x - (gridValue c : ℝ)| → c ≠ r → r % 2 = 0)

theorem gridReal_lt {i j : Nat} (h : i < j) : (gridValue i : ℝ) < (gridValue j : ℝ) := by
  exact_mod_cast gridValue_strictMono h

theorem gridReal_le {i j : Nat} (h : i ≤ j) : (gridValue i : ℝ) ≤ (gridValue j : ℝ) := by
  exact_mod_cast gridValue_strictMono.monotone h

/-- A value between two neighbours of the grid is rounded to the nearer one, and to the even one of a tie. -/
theorem gridNear_of_neighbours {x : ℝ} {i r : Nat} (hlo : (gridValue i : ℝ) ≤ x) (hhi : x ≤ (gridValue (i + 1) : ℝ))
    (h : (r = i ∧ (x - gridValue i < gridValue (i + 1) - x ∨ (x - gridValue i = gridValue (i + 1) - x ∧ i % 2 = 0))) ∨
      (r = i + 1 ∧ (gridValue (i + 1) - x < x - gridValue i ∨
        (gridValue (i + 1) - x = x - gridValue i ∧ i % 2 = 1)))) :
    GridNear x r := by
  intro c
  rcases Nat.lt_or_ge i c with hc | hc
  · have h1 : (gridValue (i + 1) : ℝ) ≤ gridValue c := gridReal_le hc
    have h2 : |x - (gridValue c : ℝ)| = gridValue c - x := by rw [abs_sub_comm, abs_of_nonneg]; linarith
    rcases h with ⟨rfl, h⟩ | ⟨rfl, h⟩
    · have h3 : |x - (gridValue r : ℝ)| = x - gridValue r := abs_of_nonneg (by linarith)
      rw [h2, h3]
      constructor
      · rcases h with h | ⟨h, -⟩ <;> linarith
      · intro he _
        rcases h with h | ⟨-, h⟩
        · linarith
        · exact h
    · have h3 : |x - (gridValue (i + 1) : ℝ)| = gridValue (i + 1) - x := by
        rw [abs_sub_comm, abs_of_nonneg]; linarith
      rw [h2, h3]
      refine ⟨by linarith, fun he hne => ?_⟩
      have : (gridValue (i + 1) : ℝ) < gridValue c := gridReal_lt (by omega)
      linarith
  · have h1 : (gridValue c : ℝ) ≤ gridValue i := gridReal_le hc
    have h2 : |x - (gridValue c : ℝ)| = x - gridValue c := abs_of_nonneg (by linarith)
    rcases h with ⟨rfl, h⟩ | ⟨rfl, h⟩
    · have h3 : |x - (gridValue r : ℝ)| = x - gridValue r := abs_of_nonneg (by linarith)
      rw [h2, h3]
      refine ⟨by linarith, fun he hne => ?_⟩
      have : (gridValue c : ℝ) < gridValue r := gridReal_lt (by omega)
      linarith
    · have h3 : |x - (gridValue (i + 1) : ℝ)| = gridValue (i + 1) - x := by
        rw [abs_sub_comm, abs_of_nonneg]; linarith
      rw [h2, h3]
      constructor
      · rcases h with h | ⟨h, -⟩ <;> linarith
      · intro he _
        rcases h with h | ⟨-, h⟩
        · linarith
        · omega

/-- Where the exact value `x` lies, by `m`, `e` and `sticky`. -/
def Between (x : ℝ) (m : Nat) (e : Int) (sticky : Bool) : Prop :=
  if sticky then (m : ℝ) * 2 ^ e < x ∧ x < ((m : ℝ) + 1) * 2 ^ e else x = (m : ℝ) * 2 ^ e

/-- The rounded index before it is capped at an infinity. -/
def roundIndex (m : Nat) (e : Int) (sticky : Bool) : Nat :=
  let ulp : Int := max (e + (Nat.log2 m : Int) - 23) (-149)
  (ulp + 149).toNat * 2 ^ 23 + roundShift m (ulp - e) sticky

theorem roundMag_eq {m : Nat} (hm : m ≠ 0) (e : Int) (sticky : Bool) :
    roundMag m e sticky = min (roundIndex m e sticky) infMag := by
  unfold roundMag roundIndex
  rw [if_neg hm]

theorem gridNear_roundIndex {x : ℝ} {m : Nat} {e : Int} {sticky : Bool} (hm : m ≠ 0)
    (hs : sticky = true → 2 ^ 25 ≤ m) (hx : Between x m e sticky) : GridNear x (roundIndex m e sticky) := by
  have hlo : 2 ^ Nat.log2 m ≤ m := Nat.log2_self_le hm
  have hhi : m < 2 ^ (Nat.log2 m + 1) := Nat.lt_log2_self
  have hL : sticky = true → 25 ≤ Nat.log2 m := fun h => (Nat.le_log2 hm).2 (hs h)
  unfold roundIndex
  simp only
  generalize hu : max (e + (Nat.log2 m : Int) - 23) (-149) = ulp
  generalize Nat.log2 m = L at *
  obtain ⟨j, hj⟩ : ∃ j : Nat, ulp = (j : ℤ) - 149 := ⟨(ulp + 149).toNat, by omega⟩
  have hjn : (ulp + 149).toNat = j := by omega
  rw [hjn]
  have hulp : (0 : ℝ) < 2 ^ ulp := by positivity
  have h2e : (0 : ℝ) < 2 ^ e := by positivity
  unfold roundShift
  by_cases hk : ulp - e ≤ 0
  · -- nothing is dropped: the value is on the grid
    rw [if_pos hk]
    have hst : sticky = false := by
      cases sticky with
      | false => rfl
      | true => have := hL rfl; omega
    subst hst
    obtain ⟨t, ht⟩ : ∃ t : Nat, e = ulp + t := ⟨(e - ulp).toNat, by omega⟩
    have htn : (-(ulp - e)).toNat = t := by omega
    rw [htn]
    have hLt : L + t ≤ 23 ∨ j = 0 := by omega
    have hLt' : L + t ≤ 23 := by omega
    have hn : m * 2 ^ t ≤ 2 ^ 24 := by
      calc m * 2 ^ t ≤ 2 ^ (L + 1) * 2 ^ t := Nat.mul_le_mul_right _ hhi.le
        _ = 2 ^ (L + 1 + t) := (pow_add 2 _ _).symm
        _ ≤ 2 ^ 24 := Nat.pow_le_pow_right (by norm_num) (by omega)
    have hn' : j = 0 ∨ 2 ^ 23 ≤ m * 2 ^ t := by
      by_cases hj0 : j = 0
      · exact Or.inl hj0
      · right
        have : L + t = 23 := by omega
        calc 2 ^ 23 = 2 ^ (L + t) := by rw [this]
          _ = 2 ^ L * 2 ^ t := pow_add 2 _ _
          _ ≤ m * 2 ^ t := Nat.mul_le_mul_right _ hlo
    have hv : (gridValue (j * 2 ^ 23 + m * 2 ^ t) : ℝ) = x := by
      rw [gridValue_scaled hn' hn]
      have hx' : x = (m : ℝ) * 2 ^ e := by simpa [Between] using hx
      rw [hx', ht, zpow_add₀ (by norm_num), hj, zpow_natCast]
      push_cast
      ring
    have hnext := gridReal_lt (Nat.lt_succ_self (j * 2 ^ 23 + m * 2 ^ t))
    exact gridNear_of_neighbours hv.le (by rw [← hv]; exact hnext.le)
      (Or.inl ⟨rfl, Or.inl (by rw [← hv] at *; linarith)⟩)
  · -- the low bits are dropped
    rw [if_neg hk]
    obtain ⟨k, hk'⟩ : ∃ k : Nat, ulp - e = (k : ℤ) := ⟨(ulp - e).toNat, by omega⟩
    have hkn : (ulp - e).toNat = k := by omega
    have hk0 : 0 < k := by omega
    rw [hkn]
    simp only
    obtain ⟨h, hd⟩ : ∃ h : Nat, 2 ^ k = 2 * h := ⟨2 ^ (k - 1), by
      rw [← pow_succ']; congr 1; omega⟩
    have hdpos : 0 < 2 ^ k := Nat.two_pow_pos k
    generalize hq : m / 2 ^ k = q
    generalize hr : m % 2 ^ k = r
    have hmqr : m = q * 2 ^ k + r := by rw [← hq, ← hr]; exact (Nat.div_add_mod' m _).symm
    have hrd : r < 2 ^ k := by rw [← hr]; exact Nat.mod_lt _ hdpos
    have hq24 : q < 2 ^ 24 := by
      rw [← hq, Nat.div_lt_iff_lt_mul hdpos, ← pow_add]
      exact lt_of_lt_of_le hhi (Nat.pow_le_pow_right (by norm_num) (by omega))
    have hq23 : j = 0 ∨ 2 ^ 23 ≤ q := by
      by_cases hj0 : j = 0
      · exact Or.inl hj0
      · right
        rw [← hq, Nat.le_div_iff_mul_le hdpos, ← pow_add]
        exact le_trans (Nat.pow_le_pow_right (by norm_num) (by omega)) hlo
    -- the two neighbours
    have hgi : (gridValue (j * 2 ^ 23 + q) : ℝ) = (q : ℝ) * 2 ^ ulp := by
      rw [gridValue_scaled hq23 (by omega), hj]; push_cast; ring
    have hgi1 : (gridValue (j * 2 ^ 23 + q + 1) : ℝ) = ((q : ℝ) + 1) * 2 ^ ulp := by
      rw [Nat.add_assoc, gridValue_scaled (by omega) (by omega), hj]; push_cast; ring
    have hulpe : (2 : ℝ) ^ ulp = (2 ^ k : ℕ) * 2 ^ e := by
      have : ulp = (k : ℤ) + e := by omega
      rw [this, zpow_add₀ (by norm_num)]
      push_cast
      simp
    have hm' : (m : ℝ) = (q : ℝ) * (2 ^ k : ℕ) + r := by exact_mod_cast hmqr
    have hd' : ((2 ^ k : ℕ) : ℝ) = 2 * (h : ℝ) := by exact_mod_cast hd
    have hpar : (j * 2 ^ 23 + q) % 2 = q % 2 := by omega
    -- the exact value between the integers r and r + 1 above q * 2^ulp, in units of 2^e
    have hxr : (m : ℝ) * 2 ^ e = (q : ℝ) * 2 ^ ulp + r * 2 ^ e := by rw [hm', hulpe]; ring
    have hcase : (sticky = false ∧ x = (q : ℝ) * 2 ^ ulp + r * 2 ^ e) ∨
        (sticky = true ∧ (q : ℝ) * 2 ^ ulp + r * 2 ^ e < x ∧ x < (q : ℝ) * 2 ^ ulp + (r + 1) * 2 ^ e) := by
      unfold Between at hx
      cases sticky with
      | false => left; refine ⟨rfl, ?_⟩; rw [← hxr]; simpa using hx
      | true =>
        right
        refine ⟨rfl, ?_, ?_⟩
        · rw [← hxr]; exact (by simpa using hx : _ ∧ _).1
        · have h2 := (by simpa using hx : _ ∧ _).2
          have : ((m : ℝ) + 1) * 2 ^ e = (q : ℝ) * 2 ^ ulp + (r + 1) * 2 ^ e := by rw [add_mul, hxr]; ring
          rwa [← this]
    have hr0 : (0 : ℝ) ≤ (r : ℝ) * 2 ^ e := by positivity
    have hr1 : ((r : ℝ) + 1) * 2 ^ e ≤ 2 ^ ulp := by
      rw [hulpe]
      have : ((r : ℝ) + 1) ≤ (2 ^ k : ℕ) := by exact_mod_cast hrd
      exact mul_le_mul_of_nonneg_right this h2e.le
    have hlox : (gridValue (j * 2 ^ 23 + q) : ℝ) ≤ x := by
      rw [hgi]; rcases hcase with ⟨-, h⟩ | ⟨-, h, -⟩ <;> linarith
    have hhix : x ≤ (gridValue (j * 2 ^ 23 + q + 1) : ℝ) := by
      rw [hgi1]; rcases hcase with ⟨-, h⟩ | ⟨-, -, h⟩ <;> nlinarith
    have hhalf : (2 : ℝ) ^ ulp = 2 * ((h : ℝ) * 2 ^ e) := by rw [hulpe, hd']; ring
    split
    · next hup =>
      rw [← Nat.add_assoc]
      refine gridNear_of_neighbours hlox hhix (Or.inr ⟨rfl, ?_⟩)
      rw [hgi, hgi1, hpar]
      rcases hup with hup | ⟨hup, htie⟩
      · left
        have : ((h : ℝ) + 1) * 2 ^ e ≤ (r : ℝ) * 2 ^ e := by
          have : (h : ℝ) + 1 ≤ r := by exact_mod_cast (by omega : h + 1 ≤ r)
          exact mul_le_mul_of_nonneg_right this h2e.le
        rcases hcase with ⟨-, hc⟩ | ⟨-, hc, -⟩ <;> nlinarith
      · have hrh : (r : ℝ) = h := by exact_mod_cast (by omega : r = h)
        rcases hcase with ⟨hst, hc⟩ | ⟨-, hc, -⟩
        · right
          rw [hst] at htie
          refine ⟨by rw [hc, hrh]; linarith, by simpa using htie⟩
        · left
          rw [hrh] at hc
          linarith
    · next hdown =>
      refine gridNear_of_neighbours hlox hhix (Or.inl ⟨rfl, ?_⟩)
      rw [hgi, hgi1, hpar]
      simp only [not_or, not_and, not_lt] at hdown
      obtain ⟨hd1, hd2⟩ := hdown
      rcases Nat.lt_or_ge r h with hrh | hrh
      · left
        have : ((r : ℝ) + 1) * 2 ^ e ≤ (h : ℝ) * 2 ^ e := by
          have : (r : ℝ) + 1 ≤ h := by exact_mod_cast hrh
          exact mul_le_mul_of_nonneg_right this h2e.le
        rcases hcase with ⟨-, hc⟩ | ⟨-, -, hc⟩ <;> nlinarith
      · have hrh' : r = h := by omega
        have htie := hd2 (by omega)
        right
        rcases hcase with ⟨hst, hc⟩ | ⟨hst, -⟩
        · refine ⟨by rw [hc, hrh']; linarith, by omega⟩
        · exact absurd hst htie.1

theorem gridValue_infMag : gridValue infMag = 2 ^ 128 := by
  unfold gridValue infMag; norm_num

theorem gridValue_maxFinite : gridValue (infMag - 1) = (2 ^ 24 - 1) * 2 ^ 104 := by
  unfold gridValue infMag; norm_num

/-- R152: a magnitude at or above the overflow bound rounds to an infinity, one below it to a nearest finite value. -/
theorem roundIndex_ge_infMag_iff {x : ℝ} {r : Nat} (h : GridNear x r) :
    infMag ≤ r ↔ (overflowBound : ℝ) ≤ x := by
  have hmax : (gridValue (infMag - 1) : ℝ) = (2 ^ 24 - 1) * 2 ^ 104 := by
    rw [gridValue_maxFinite]; norm_num
  have hinf : (gridValue infMag : ℝ) = 2 ^ 128 := by rw [gridValue_infMag]; norm_num
  have hb : (overflowBound : ℝ) = (2 ^ 24 - 1 / 2) * 2 ^ 104 := by unfold overflowBound; push_cast; norm_num
  have hm : infMag = 2139095040 := by rfl
  constructor
  · intro hr
    by_contra hx
    rw [hb, not_le] at hx
    have h1 := (h (infMag - 1)).1
    have h2 : (gridValue infMag : ℝ) ≤ gridValue r := gridReal_le hr
    rw [hinf] at h2
    rw [hmax] at h1
    rw [abs_sub_comm, abs_of_nonneg (by norm_num at hx ⊢; linarith)] at h1
    rcases le_total 0 (x - (2 ^ 24 - 1) * 2 ^ 104) with h3 | h3
    · rw [abs_of_nonneg h3] at h1
      norm_num at *
      linarith
    · rw [abs_of_nonpos h3] at h1
      norm_num at *
      linarith
  · intro hx
    by_contra hr
    rw [hb] at hx
    have hr' : r ≤ infMag - 1 := by omega
    obtain ⟨h1, h2⟩ := h infMag
    have h3 : (gridValue r : ℝ) ≤ gridValue (infMag - 1) := gridReal_le hr'
    rw [hmax] at h3
    have h4 : |x - (gridValue r : ℝ)| = x - gridValue r := abs_of_nonneg (by norm_num at *; linarith)
    rw [h4, hinf] at h1 h2
    rcases le_total 0 (x - 2 ^ 128) with h5 | h5
    · rw [abs_of_nonneg h5] at h1
      norm_num at *
      linarith
    · rw [abs_of_nonpos h5] at h1 h2
      have h6 : x - (gridValue r : ℝ) = -(x - 2 ^ 128) := by norm_num at *; linarith
      have h7 : (gridValue (infMag - 1) : ℝ) ≤ gridValue r := by rw [hmax]; norm_num at *; linarith
      have h8 : infMag - 1 ≤ r := by
        by_contra hlt
        have := gridReal_lt (not_le.mp hlt)
        linarith
      have := h2 h6 (by omega)
      omega

/-- What `roundMag` says once (R152): with the sign `neg`, the result is the correctly rounded `±x`. -/
theorem roundsTo_withSign_roundMag {x : ℝ} {m : Nat} {e : Int} {sticky : Bool} (neg : Bool) (hm : m ≠ 0)
    (hs : sticky = true → 2 ^ 25 ≤ m) (hx : Between x m e sticky) :
    RoundsTo (if neg then -x else x) (withSign neg (roundMag m e sticky)) := by
  have hnear := gridNear_roundIndex hm hs hx
  have hxpos : 0 < x := by
    have h2e : (0 : ℝ) < 2 ^ e := by positivity
    have hm' : (0 : ℝ) < m := by exact_mod_cast Nat.pos_of_ne_zero hm
    unfold Between at hx
    cases sticky with
    | false => have : x = (m : ℝ) * 2 ^ e := by simpa using hx
               rw [this]; positivity
    | true => have := (by simpa using hx : _ ∧ _).1
              have h3 : (0 : ℝ) < (m : ℝ) * 2 ^ e := by positivity
              linarith
  have habs : |(if neg then -x else x)| = x := by
    cases neg <;> simp [abs_of_pos hxpos]
  have hneg : decide ((if neg then -x else x) < 0) = neg := by
    cases neg
    · simp [hxpos.le]
    · simpa using hxpos
  rw [roundMag_eq hm]
  unfold RoundsTo
  rw [habs, hneg]
  split
  · next hb => rw [Nat.min_eq_right ((roundIndex_ge_infMag_iff hnear).2 hb)]
  · next hb =>
    have hlt : roundIndex m e sticky < infMag := by
      by_contra hge
      exact hb ((roundIndex_ge_infMag_iff hnear).1 (not_lt.mp hge))
    rw [Nat.min_eq_left hlt.le]
    have hlt31 := lt_trans hlt infMag_lt
    refine ⟨by rw [isFinite_iff, magBits_withSign neg hlt31]; exact hlt, fun c hc => ?_⟩
    have hv : |(if neg then -x else x) - (value (withSign neg (roundIndex m e sticky)) : ℝ)| =
        |x - (gridValue (roundIndex m e sticky) : ℝ)| := by
      rw [value_withSign neg hlt31]
      cases neg
      · simp
      · simp only [if_true]
        push_cast
        rw [← abs_neg]
        congr 1
        ring
    rw [hv]
    by_cases hsame : signBit c = neg
    · have hvc : |(if neg then -x else x) - (value c : ℝ)| = |x - (gridValue (magBits c) : ℝ)| := by
        rw [value_eq, hsame]
        cases neg
        · simp
        · simp only [if_true]
          push_cast
          rw [← abs_neg]
          congr 1
          ring
      rw [hvc]
      obtain ⟨h1, h2⟩ := hnear (magBits c)
      refine ⟨h1, fun he hne => ?_⟩
      have hne' : magBits c ≠ roundIndex m e sticky := by
        intro h
        apply hne
        rw [← h, ← hsame, withSign_magBits]
      have hpar := h2 he hne'
      rw [← BitVec.testBit_toNat, withSign_toNat neg hlt31, Nat.testBit_zero, decide_eq_false]
      cases neg
      · simp only [Bool.false_eq_true, if_false]; omega
      · simp only [if_true]; omega
    · have hvc : |(if neg then -x else x) - (value c : ℝ)| = x + gridValue (magBits c) := by
        have hg : (0 : ℝ) ≤ gridValue (magBits c) := by exact_mod_cast gridValue_nonneg _
        rw [value_eq]
        cases neg
        · have : signBit c = true := by simpa using hsame
          rw [this]
          simp only [Bool.false_eq_true, if_false, if_true]
          push_cast
          rw [abs_of_nonneg (by linarith)]
          ring
        · have : signBit c = false := by simpa using hsame
          rw [this]
          simp only [Bool.false_eq_true, if_false, if_true]
          push_cast
          rw [abs_of_nonpos (by linarith)]
          ring
      rw [hvc]
      have hg : (0 : ℝ) ≤ gridValue (magBits c) := by exact_mod_cast gridValue_nonneg _
      obtain ⟨h1, h2⟩ := hnear 0
      have h0 : |x - (gridValue 0 : ℝ)| = x := by rw [gridValue_zero]; simp [abs_of_pos hxpos]
      rw [h0] at h1 h2
      refine ⟨by linarith, fun he hne => ?_⟩
      have hg0 : (gridValue (magBits c) : ℝ) = 0 := by linarith
      rcases Nat.eq_zero_or_pos (roundIndex m e sticky) with hz | hz
      · rw [← BitVec.testBit_toNat, withSign_toNat neg hlt31, hz]
        cases neg <;> rfl
      · have hpar := h2 (by linarith) (by omega)
        rw [← BitVec.testBit_toNat, withSign_toNat neg hlt31, Nat.testBit_zero, decide_eq_false]
        cases neg
        · simp only [Bool.false_eq_true, if_false]; omega
        · simp only [if_true]; omega

end Sys2Proof.Machine
end

