-- ==== Sys2Proof/Laws/Step.lean ====
section
/-! SUPPORT. What `exec` and `step` can do, said once: the inversion lemmas that a proof about a next state cites
instead of unfolding the step. -/

namespace Sys2Proof.Machine

/-- Two next states are equal when their outcomes are. -/
theorem next_inj {s t : State} :
    (Host.Outcome.next s : Host.Outcome State Fault Refusal) = .next t ↔ s = t :=
  ⟨fun h => Host.Outcome.next.inj h, congrArg _⟩

/-- `exec` answers a next state, but for a `PUSH` in a state whose sequencer is over its bound (R123). -/
theorem exec_next_or_fault (i : Instr) (s : State) :
    (∃ t, exec i s = .next t) ∨
    (∃ code ts, i = .push code ts ∧ s.params.vctTotal ≤ s.asmFill ∧ exec i s = .fault .assemblerOverflow) := by
  cases i with
  | push code ts =>
    by_cases h : s.params.vctTotal ≤ s.asmFill
    · exact Or.inr ⟨code, ts, rfl, h, by simp [exec, execPush, h]⟩
    · left
      by_cases h' : s.asmFill + 1 < s.params.vctTotal
      · exact ⟨_, by simp only [exec, execPush]; rw [if_neg h, if_pos h']⟩
      · exact ⟨_, by simp only [exec, execPush]; rw [if_neg h, if_neg h']⟩
  | frame len ts => exact Or.inl ⟨_, rfl⟩
  | fdat code =>
    left
    cases h : s.burst with
    | none => exact ⟨_, by simp only [exec, execFdat, h]; rfl⟩
    | some b => exact ⟨_, by simp only [exec, execFdat, h]; rfl⟩
  | setv ch scale =>
    left
    by_cases h : s.params.v ≤ ch.toNat
    · exact ⟨_, by simp only [exec, execSetv]; rw [if_pos h]⟩
    · exact ⟨_, by simp only [exec, execSetv]; rw [if_neg h]⟩
  | seti ch scale =>
    left
    by_cases h : s.params.ct ≤ ch.toNat
    · exact ⟨_, by simp only [exec, execSeti]; rw [if_pos h]⟩
    · exact ⟨_, by simp only [exec, execSeti]; rw [if_neg h]⟩
  | popr =>
    left
    cases h : s.rslot with
    | none => exact ⟨_, by simp only [exec, execPopr, h]; rfl⟩
    | some e => exact ⟨_, by simp only [exec, execPopr, h]; rfl⟩
  | nop => exact Or.inl ⟨_, rfl⟩
  | rste => exact Or.inl ⟨_, rfl⟩
  | gete => exact Or.inl ⟨_, rfl⟩
  | ovrn => exact Or.inl ⟨_, rfl⟩
  | diag => exact Or.inl ⟨_, rfl⟩

/-- A `PUSH` that runs either fills one more entry of the buffer or completes the scan (R120). -/
theorem execPush_next_cases {code : Code} {ts : Timestamp} {s t : State} (h : exec (.push code ts) s = .next t) :
    s.asmFill < s.params.vctTotal ∧
    ((s.asmFill + 1 < s.params.vctTotal ∧
      t = ({ s with abuf := s.abuf.set s.asmFill code, asmFill := s.asmFill + 1 } : State).answer .ok {} []) ∨
     (s.asmFill + 1 = s.params.vctTotal ∧
      t = ({ putFrame { s with abuf := s.abuf.set s.asmFill code } ⟨s.abuf.set s.asmFill code, ts⟩ with
          asmFill := 0 } : State).answer .ok { fdone := true, drop := s.fslot.isSome } [])) := by
  simp only [exec, execPush] at h
  split at h
  · cases h
  · next h1 =>
    refine ⟨by omega, ?_⟩
    split at h
    · next h2 => exact Or.inl ⟨h2, (next_inj.1 h).symm⟩
    · next h2 => exact Or.inr ⟨by omega, (next_inj.1 h).symm⟩

/-- `FDAT` is the next data word of the open burst, or illegal where none is open (R94, R96 b). -/
theorem execFdat_next_cases {code : Code} {s t : State} (h : exec (.fdat code) s = .next t) :
    (s.burst = none ∧ t = s.answerIllegal) ∨ (∃ b, s.burst = some b ∧ t = takeDataWord s b (some code)) := by
  simp only [exec, execFdat] at h
  split at h
  · next hb => exact Or.inl ⟨hb, (next_inj.1 h).symm⟩
  · next b hb => exact Or.inr ⟨b, hb, (next_inj.1 h).symm⟩

/-- A setter either finds its index out of range or writes one register (R252, R253). -/
theorem execSetv_next_cases {ch : BitVec 8} {scale : F32} {s t : State} (h : exec (.setv ch scale) s = .next t) :
    (s.params.v ≤ ch.toNat ∧ t = s.answer .invalidChannelIndex {} []) ∨
    (ch.toNat < s.params.v ∧ t = ({ s with vcal := s.vcal.set ch.toNat scale } : State).answer .ok {} []) := by
  simp only [exec, execSetv] at h
  split at h
  · next hc => exact Or.inl ⟨hc, (next_inj.1 h).symm⟩
  · next hc => exact Or.inr ⟨by omega, (next_inj.1 h).symm⟩

/-- R254, R255. -/
theorem execSeti_next_cases {ch : BitVec 8} {scale : F32} {s t : State} (h : exec (.seti ch scale) s = .next t) :
    (s.params.ct ≤ ch.toNat ∧ t = s.answer .invalidChannelIndex {} []) ∨
    (ch.toNat < s.params.ct ∧ t = ({ s with ical := s.ical.set ch.toNat scale } : State).answer .ok {} []) := by
  simp only [exec, execSeti] at h
  split at h
  · next hc => exact Or.inl ⟨hc, (next_inj.1 h).symm⟩
  · next hc => exact Or.inr ⟨by omega, (next_inj.1 h).symm⟩

/-- `POPR` finds the slot empty or takes its entry (R260). -/
theorem execPopr_next_cases {s t : State} (h : exec .popr s = .next t) :
    (s.rslot = none ∧ t = s.answer .empty {} []) ∨
    (∃ e, s.rslot = some e ∧ t = ({ s with rslot := none } : State).answer .ok {} (e.report.words ++ [e.ts])) := by
  simp only [exec, execPopr] at h
  split at h
  · next hr => exact Or.inl ⟨hr, (next_inj.1 h).symm⟩
  · next e hr => exact Or.inr ⟨e, hr, (next_inj.1 h).symm⟩

/-- One step, then the rest of a run. -/
theorem run_succ {s t : State} (k : Nat) (h : step s = .next t) :
    Host.Core.run core (k + 1) s = Host.Core.run core k t := by
  have key : ∀ (M : Host.Core) (a b : M.State), M.step a = .next b → M.run (k + 1) a = M.run k b := by
    intro M a b hab
    simp only [Host.Core.run, hab]
  exact key core s t h

/-- Everything a step that answers a next state can have been: the METER turn, a turn of the port with no word waiting,
a decoded word, or a rejected word. -/
theorem step_next_cases {s t : State} (h : step s = .next t) : paramsLegal s.params = true ∧
    ((nextTurn s = .meter ∧ t = meterTurn (useTurn s)) ∨
     (nextTurn s = .command ∧ s.port = [] ∧ t = useTurn s) ∨
     (nextTurn s = .command ∧ ∃ w rest, s.port = w :: rest ∧
       ((∃ i, decodeWord s w = .ok i ∧ exec i (consumeWord (useTurn s)) = .next t) ∨
        (∃ e, decodeWord s w = .error e ∧ t = rejectWord (consumeWord (useTurn s)))))) := by
  unfold step at h
  split at h
  · next hl =>
    refine ⟨hl, ?_⟩
    split at h
    · next ht =>
      right
      unfold commandTurn portWord at h
      cases hp : s.port with
      | nil =>
        simp only [useTurn_port, hp, List.head?_nil] at h
        exact Or.inl ⟨ht, rfl, (next_inj.1 h).symm⟩
      | cons w rest =>
        simp only [useTurn_port, hp, List.head?_cons] at h
        have hd : decodeWord (useTurn s) w = decodeWord s w := rfl
        rw [hd] at h
        refine Or.inr ⟨ht, w, rest, rfl, ?_⟩
        cases hw : decodeWord s w with
        | ok i => rw [hw] at h; exact Or.inl ⟨i, rfl, h⟩
        | error e => rw [hw] at h; exact Or.inr ⟨e, rfl, (next_inj.1 h).symm⟩
    · next ht => exact Or.inl ⟨ht, (next_inj.1 h).symm⟩
  · cases h

/-- No instruction writes the registers that only reset writes (R26, R31, R32, R302). -/
theorem exec_keeps_configuration {i : Instr} {s t : State} (h : exec i s = .next t) :
    t.params = s.params ∧ t.phaseCal = s.phaseCal ∧ t.reportCycles = s.reportCycles ∧
      t.mainsFrequency = s.mainsFrequency := by
  cases i with
  | push code ts => rcases execPush_next_cases h with ⟨-, ⟨-, rfl⟩ | ⟨-, rfl⟩⟩ <;> simp
  | frame len ts => obtain rfl := next_inj.1 h; simp
  | fdat code => rcases execFdat_next_cases h with ⟨-, rfl⟩ | ⟨b, -, rfl⟩ <;> simp
  | setv ch scale => rcases execSetv_next_cases h with ⟨-, rfl⟩ | ⟨-, rfl⟩ <;> simp
  | seti ch scale => rcases execSeti_next_cases h with ⟨-, rfl⟩ | ⟨-, rfl⟩ <;> simp
  | popr => rcases execPopr_next_cases h with ⟨-, rfl⟩ | ⟨e, -, rfl⟩ <;> simp
  | nop => obtain rfl := next_inj.1 h; simp
  | rste => obtain rfl := next_inj.1 h; simp
  | gete => obtain rfl := next_inj.1 h; simp
  | ovrn => obtain rfl := next_inj.1 h; simp
  | diag => obtain rfl := next_inj.1 h; simp

end Sys2Proof.Machine
end

