-- ==== Sys2Proof/Tests/Slice0.lean ====
section
/-! SUPPORT. Small tests: the operand checks, the words of the spec, one step of each instruction with the values of
spec/95_test_vectors.md (the vector is named in each docstring), the arithmetic, and for every obligation with
hypotheses a state and operands that meet all of them together. -/

namespace Sys2Proof.Tests

open Sys2Proof.Machine

/-- CFG-A of spec/95_test_vectors.md right after reset. -/
abbrev cfgA : State := State.reset

/-- The next state of an outcome. -/
def after (o : Host.Outcome State Fault Refusal) : Option State :=
  match o with
  | .next t => some t
  | .fault _ => none
  | .refused _ => none

/-- The state after the word `w` is taken in `s`. -/
def take (s : State) (w : CommandWord) : Option State := after (step { s with port := [w], turns := [.command] })

/-- The words of the response to `w` in `s`. -/
def respond (s : State) (w : CommandWord) : Option (List Word32) :=
  (take s w).bind fun t => t.response.map Response.words

/-- CFG-A with an instance that takes frames of at most 300 samples (vector FR8). -/
abbrev shortFrames : Params := { Params.reference with frameMax := 300 }

/-- One data word of a frame is missing: `[1024, 2048]` of a three-word burst has arrived. -/
def burstOfTwo (malformed : Bool) : State := { cfgA with burst := some ⟨1, 1000#32, [1024#16, 2048#16], malformed⟩ }

/-- A frame waits in `fslot`, two samples are assembled, two words wait: a `POPR` and a `NOP`. -/
def busy : State :=
  { cfgA with
    asmFill := 2
    abuf := [7#16, 4095#16, 0#16]
    fslot := some ⟨[1024#16, 2048#16, 0#16], 7#32⟩
    port := [0x0800000000000000#64, 0#64] }

theorem codesInRange_of_all {p : Params} {codes : List Code} (h : codes.all (codeInRange p) = true) :
    codesInRange p codes := List.all_eq_true.1 h

/-! ### Operand checks (R98, R96 e) -/

theorem test_push_code_too_large : (Instr.push 4096#16 0#32).wellFormed Params.reference = false := by decide
theorem test_push_code_largest : (Instr.push 4095#16 0#32).wellFormed Params.reference = true := by decide
theorem test_fdat_code_too_large : (Instr.fdat 4096#16).wellFormed Params.reference = false := by decide
theorem test_frame_too_long : (Instr.frame 301#16 0#32).wellFormed shortFrames = false := by decide
theorem test_frame_longest : (Instr.frame 300#16 0#32).wellFormed shortFrames = true := by decide

/-! ### Words: R108 written out, and one word for each of the other rows -/

theorem test_decode_nop : decodeTableWord 64 0x0000000000000000 = some .nop := by decide
theorem test_decode_push : decodeTableWord 64 0x01000400000003E8 = some (.push 1024#16 1000#32) := by decide
theorem test_decode_frame : decodeTableWord 64 0x02000003000003E8 = some (.frame 3#16 1000#32) := by decide
theorem test_decode_fdat : decodeTableWord 64 0x0300080000000000 = some (.fdat 2048#16) := by decide
theorem test_decode_setv : decodeTableWord 64 0x0400000043660000 = some (.setv 0#8 0x43660000#32) := by decide
theorem test_decode_seti : decodeTableWord 64 0x05010000BF800000 = some (.seti 1#8 0xBF800000#32) := by decide
theorem test_decode_rste : decodeTableWord 64 0x0600000000000000 = some .rste := by decide
theorem test_decode_gete : decodeTableWord 64 0x0700000000000000 = some .gete := by decide
theorem test_decode_popr : decodeTableWord 64 0x0800000000000000 = some .popr := by decide
theorem test_decode_ovrn : decodeTableWord 64 0x0900000000000000 = some .ovrn := by decide
theorem test_decode_diag : decodeTableWord 64 0x0A00000000000000 = some .diag := by decide

/-- CF15, CF7, SQ9, FR8: each error by its name. -/
theorem test_decode_errors :
    decode Params.reference 0xFF00000000000000#64 = .error .unknownOpcode ∧
    decode Params.reference 0x0400000143660000#64 = .error .reservedField ∧
    decode Params.reference 0x0100100000000006#64 = .error .codeOutOfRange ∧
    decode shortFrames 0x0200012D00000000#64 = .error .frameTooLong ∧
    decodeIn true Params.reference 0x0100000500000007#64 = .error .malformedDataWord := by decide

/-- R100: `CLOCK_NON_MONOTONIC RPT CNM DROP` is `0x000000B4` (FR5), `OK FDONE DROP` is `0x000000C0` (SQ4). -/
theorem test_status_words :
    Response.statusWord ⟨.clockNonMonotonic, { rpt := true, cnm := true, drop := true }, []⟩ = 0x000000B4#32 ∧
    Response.statusWord ⟨.ok, { fdone := true, drop := true }, []⟩ = 0x000000C0#32 ∧
    Response.statusWord ⟨.ok, {}, [0#32, 0#32]⟩ = 0x00020000#32 := by decide

/-! ### One step of each instruction -/

/-- CF9 -/
theorem test_nop : respond cfgA 0x0000000000000000#64 = some [0x00000000#32] := by decide +kernel

/-- SQ1 -/
theorem test_push_first :
    (take cfgA 0x0100040000000005#64).map (fun t => (t.abuf, t.asmFill, t.fslot)) =
      some ([1024#16, 0#16, 0#16], 1, none) := by decide +kernel

/-- SQ3 and SQ4, its last push, on a slot that is still full -/
theorem test_push_overwrites :
    (take busy 0x0100000300000009#64).map (fun t => (t.fslot, t.asmFill, t.frameDropCount, t.faultInd)) =
      some (some ⟨[7#16, 4095#16, 3#16], 9#32⟩, 0, 1#32, 0b01#2) ∧
    respond busy 0x0100000300000009#64 = some [0x000000C0#32] := by decide +kernel

/-- FR3 -/
theorem test_frame_empty : respond cfgA 0x0200000000000007#64 = some [0x00000001#32] := by decide +kernel

/-- A header opens its burst and has not answered yet (R94). -/
theorem test_frame_header :
    (take cfgA 0x02000003000003E8#64).map (fun t => (t.burst, t.response)) =
      some (some ⟨3, 1000#32, [], false⟩, none) := by decide +kernel

/-- RM1, PF1: the report of `FRAME 1000, [1024, 2048, 0]`, completed by its last data word -/
theorem test_fdat_last :
    (take (burstOfTwo false) 0x0300000000000000#64).map (fun t => (t.rslot.map fun e => (e.report.words, e.ts))) =
      some (some ([0x3F800000#32, 0x40000000#32, 0#32, 0x40000000#32, 0#32, 0x40000000#32, 0#32, 0x3F800000#32, 0#32,
        0x42480000#32, 0#32, 0#32], 1000#32)) := by decide +kernel

/-- CF16 -/
theorem test_fdat_outside : respond cfgA 0x0300040000000000#64 = some [0x0000000F#32] := by decide +kernel

/-- CF1 -/
theorem test_setv : (take cfgA 0x0400000043660000#64).map (·.vcal) = some [0x43660000#32] := by decide +kernel

/-- CF3 -/
theorem test_setv_out_of_range :
    respond cfgA 0x0401000040000000#64 = some [0x00000002#32] ∧
    (take cfgA 0x0401000040000000#64).map (·.vcal) = some [0x3F800000#32] := by decide +kernel

/-- CF4 -/
theorem test_seti :
    (take cfgA 0x05010000BF800000#64).map (·.ical) = some [0x3F800000#32, 0xBF800000#32] := by decide +kernel

/-- CF5 -/
theorem test_seti_out_of_range : respond cfgA 0x0502000040000000#64 = some [0x00000002#32] := by decide +kernel

/-- CF13 -/
theorem test_rste :
    (take { cfgA with energy := [0x450FC000#32, 0#32] } 0x0600000000000000#64).map (·.energy) =
      some [0#32, 0#32] := by decide +kernel

/-- CF10, on the accumulators of program 1 -/
theorem test_gete :
    respond { cfgA with energy := [0x450FC000#32, 0#32] } 0x0700000000000000#64 =
      some [0x00020000#32, 0x450FC000#32, 0#32] := by decide +kernel

/-- CF11 -/
theorem test_popr_empty : respond cfgA 0x0800000000000000#64 = some [0x00000005#32] := by decide +kernel

/-- The METER step of `busy`, then `POPR`: FR4's 13 data words, with the timestamp 7 -/
theorem test_popr_after_meter :
    ((after (step busy)).bind fun t => respond t 0x0800000000000000#64) =
      some [0x000D0000#32, 0x3F800000#32, 0x40000000#32, 0#32, 0x40000000#32, 0#32, 0x40000000#32, 0#32,
        0x3F800000#32, 0#32, 0x42480000#32, 0#32, 0#32, 7#32] := by decide +kernel

/-- SQ7 -/
theorem test_ovrn_saturates :
    (take { cfgA with overrunCount := 0xFFFFFFFF#32 } 0x0900000000000000#64).map (·.overrunCount) =
      some 0xFFFFFFFF#32 := by decide +kernel

/-- SQ6, its last word -/
theorem test_diag :
    respond { cfgA with overrunCount := 2#32 } 0x0A00000000000000#64 =
      some [0x00050000#32, 2#32, 0#32, 0#32, 0#32, 0#32] := by decide +kernel

/-- CF14: an illegal word is answered, and SQ9: it changes nothing -/
theorem test_illegal_words :
    respond cfgA 0x0800000000000001#64 = some [0x0000000F#32] ∧
    (take busy 0x0100100000000006#64).map (·.asmFill) = some 2 := by decide +kernel

/-- The host's question: the word is the next to run, a data word too. -/
theorem test_withFetchWord :
    (after (step (cfgA.withFetchWord 64 0x0900000000000000))).map (·.overrunCount) = some 1#32 ∧
    (after (step (cfgA.withFetchWord 64 0x0300080000000000))).map (·.burst) =
      some (some ⟨1, 0#32, [2048#16], false⟩) := by decide +kernel

/-! ### The engine -/

/-- EN9: one frame 1 ms after the last, at 2300 W, on 2300 Wh -/
theorem test_energy_step :
    (processFrame defaultNumerics
      { cfgA with vcal := [0x43660000#32], ical := [0x40A00000#32, 0x3F800000#32], energy := [0x450FC000#32, 0#32],
                  tsValid := true, lastTimestampMs := 5#32 }
      [1024#16, 2048#16, 0#16] 6#32).state.energy = [0x450FC003#32, 0#32] := by decide +kernel

/-- RM2, PF9: two scans; the real powers and the power factors -/
theorem test_two_scans :
    (channelResults defaultNumerics cfgA [1024#16, 2048#16, 0#16, 3072#16, 1024#16, 1024#16] 1000#32).map
        (fun r => (r.irms, r.realPower, r.apparentPower, r.powerFactor)) =
      [(0x3FCA62C2#32, 0x40200000#32, 0x40624630#32, 0x3F3504F3#32),
       (0x3F3504F3#32, 0x3FC00000#32, 0x3FCA62C2#32, 0x3F72DCE8#32)] := by decide +kernel

/-- Another instance's numerics is another record, of which nothing is assumed (R150). -/
theorem test_numerics_of_instance :
    numericsOf Params.reference = defaultNumerics ∧
    numericsOf { Params.reference with numerics := .backend 1 } = Config.backendRecord 1 := ⟨rfl, rfl⟩

/-- AR11, AR5 and the constants of R164 -/
theorem test_arithmetic :
    fdiv (i2f 4294967295) fMsPerHour = 0x4495217D#32 ∧
    convert defaultNumerics { Params.reference with adcVref := 0x40533333#32 } 2048#16 0x43660000#32 =
      0x43BDC000#32 ∧
    kLsb defaultNumerics Params.reference = 0x3A800000#32 := by decide +kernel

/-! ### Witnesses: for every obligation with hypotheses, a case that meets them all -/

theorem witness_DecodeEncodeRoundTrip :
    [Instr.nop, .push 4095#16 0xFFFFFFFF#32, .frame 65535#16 0#32, .fdat 0#16, .setv 255#8 0x7FC00000#32,
      .seti 255#8 0#32, .rste, .gete, .popr, .ovrn, .diag].all (·.wellFormed Params.reference) = true := by decide

theorem witness_EncodeDecodeRoundTrip :
    decode Params.reference 0x01000FFFFFFFFFFF#64 = .ok (.push 4095#16 0xFFFFFFFF#32) ∧
    ¬illegalWord Params.reference 0x01000FFFFFFFFFFF#64 ∧
    ¬illegalWord Params.reference 0x0A00000000000000#64 := by
  unfold illegalWord reservedNonZero; decide

theorem witness_DataWordsInsideBurst :
    wellFormedData Params.reference 0x03000FFF00000000#64 ∧
    ¬wellFormedData Params.reference 0x0300100000000000#64 ∧
    ¬wellFormedData Params.reference 0x0100000500000007#64 := by unfold wellFormedData; decide

/-- Outside a burst, and inside one. -/
theorem witness_StepRunsDecodedInstruction :
    (paramsLegal ({ busy with fslot := none } : State).params = true ∧
      nextTurn { busy with fslot := none } = .command ∧
      ({ busy with fslot := none } : State).port = 0x0800000000000000#64 :: [0#64] ∧
      decodeIn ({ busy with fslot := none } : State).burst.isSome Params.reference 0x0800000000000000#64 = .ok .popr) ∧
    (nextTurn { burstOfTwo false with port := [0x0300000000000000#64] } = .command ∧
      decodeIn (burstOfTwo false).burst.isSome Params.reference 0x0300000000000000#64 = .ok (.fdat 0#16)) := by
  decide +kernel

/-- One word for each of R96 a to e. -/
theorem witness_IllegalWordAnsweredWithoutEffect :
    paramsLegal shortFrames = true ∧
    (illegalWord shortFrames 0x0B00000000000000#64 ∧ illegalWord shortFrames 0x0300040000000000#64 ∧
      illegalWord shortFrames 0x0600000000000001#64 ∧ illegalWord shortFrames 0x0100100000000000#64 ∧
      illegalWord shortFrames 0x0200012D00000000#64) ∧
    (let s : State := { State.resetOf shortFrames with port := [0x0200012D00000000#64] }
     nextTurn s = .command ∧ s.burst = none) := by
  refine ⟨by decide +kernel, ⟨?_, ?_, ?_, ?_, ?_⟩, by decide +kernel, rfl⟩ <;>
    (unfold illegalWord reservedNonZero; decide)

/-- The least `ADC_VREF` above 0 is legal; 0, a negative value and an infinity are not, nor is `REF = V`. -/
theorem witness_LegalInstancesAreThoseOfR332 :
    paramsLegal Params.reference = true ∧ paramsLegal { Params.reference with adcVref := 0x00000001#32 } = true ∧
    paramsLegal ({ cfgA with params := { Params.reference with ref := 1 } } : State).params = false ∧
    paramsLegal { Params.reference with adcVref := 0x00000000#32 } = false ∧
    paramsLegal { Params.reference with adcVref := 0xC0800000#32 } = false ∧
    paramsLegal { Params.reference with adcVref := 0x7F800000#32 } = false := by decide +kernel

theorem witness_PushStoresSample :
    cfgA.asmFill + 1 < cfgA.params.v + cfgA.params.ct ∧
    ({ cfgA with asmFill := 1 } : State).asmFill + 1 < cfgA.params.v + cfgA.params.ct := by decide

theorem witness_PushCompletesScan : busy.asmFill + 1 = busy.params.v + busy.params.ct := by decide

theorem witness_PushFaultsExactlyWhenOverfull :
    busy.params.v + busy.params.ct ≤ ({ busy with asmFill := 3 } : State).asmFill := by decide

theorem witness_ScanOfPushesHandsOverFrame :
    cfgA.asmFill = 0 ∧ cfgA.abuf.length = cfgA.params.v + cfgA.params.ct ∧
    ([(1024#16, 5#32), (2048#16, 6#32)] : List (Code × Timestamp)).length + 1 = cfgA.params.v + cfgA.params.ct := by
  decide

/-- Below one scan, exactly one, and more than two. -/
theorem witness_PushesFromResetFillScans :
    paramsLegal Params.reference = true ∧
    (List.replicate 2 (1#16, 1#32)).length < Params.reference.v + Params.reference.ct ∧
    Params.reference.v + Params.reference.ct ≤ (List.replicate 3 (1#16, 1#32)).length ∧
    Params.reference.v + Params.reference.ct ≤ (List.replicate 7 (1#16, 1#32)).length := by decide +kernel

theorem witness_FrameHeaderOpensBurst :
    1#16 ≠ 0#16 ∧ 65535#16 ≠ 0#16 ∧ 0#16 = 0#16 ∧ 1 ≤ cfgA.params.v + cfgA.params.ct := by decide

theorem witness_DataWordExtendsBurst :
    ({ cfgA with burst := some ⟨2, 0#32, [], true⟩ } : State).burst = some ⟨2, 0#32, [], true⟩ ∧
    1 < (⟨2, 0#32, [], true⟩ : Burst).remaining ∧ cfgA.burst = none := by decide

theorem witness_LastDataWordProcessesFrame :
    ((burstOfTwo false).burst = some ⟨1, 1000#32, [1024#16, 2048#16], false⟩ ∧
      (⟨1, 1000#32, [1024#16, 2048#16], false⟩ : Burst).malformed = false) ∧
    ((burstOfTwo true).burst = some ⟨1, 1000#32, [1024#16, 2048#16], true⟩ ∧
      (⟨1, 1000#32, [1024#16, 2048#16], true⟩ : Burst).malformed = true) := by decide

/-- The longest frame of an instance with `FRAME_MAX = 3` and another numerics record, with its four turns scheduled, a
METER turn after them and a frame waiting; the empty frame; and the empty schedule. -/
theorem witness_FrameCommandRunsProcessFrame :
    let codes := [1024#16, 2048#16, 4095#16]
    let p : Params := { Params.reference with frameMax := 3, numerics := .backend 0 }
    let s : State := { State.resetOf p with
      port := encodeFrame 7#32 codes ++ [0#64]
      fslot := some ⟨[0#16, 1#16, 2#16], 6#32⟩
      turns := List.replicate (codes.length + 1) .command ++ [.meter] }
    paramsLegal s.params = true ∧ s.burst = none ∧
      s.turns = List.replicate (codes.length + 1) .command ++ [.meter] ∧ codes.length ≤ s.params.frameMax ∧
      codesInRange s.params codes ∧ s.port = encodeFrame 7#32 codes ++ [0#64] ∧
      ([] : List Code).length ≤ s.params.frameMax ∧ codesInRange s.params [] ∧ (State.resetOf p).turns = [] :=
  ⟨by decide +kernel, rfl, rfl, by decide, codesInRange_of_all (by decide +kernel), rfl, by decide,
    codesInRange_of_all rfl, rfl⟩

/-- FR7, with its four turns scheduled, and on the empty schedule. -/
theorem witness_MalformedBurstIsIllegal :
    let words := [0x0300040000000000#64, 0x0100000500000007#64, 0x0300000000000000#64]
    let s : State := { cfgA with
      port := encode (.frame (BitVec.ofNat 16 words.length) 1000#32) :: (words ++ [0#64])
      turns := List.replicate (words.length + 1) .command ++ [.meter] }
    paramsLegal s.params = true ∧ s.burst = none ∧
    s.turns = List.replicate (words.length + 1) .command ++ [.meter] ∧ cfgA.turns = [] ∧
    words.length ≤ s.params.frameMax ∧ (∃ w ∈ words, ¬wellFormedData s.params w) :=
  ⟨by decide +kernel, rfl, rfl, rfl, by decide, 0x0100000500000007#64, by simp, by unfold wellFormedData; decide⟩

theorem witness_ShortFrameChangesNothing :
    ({ cfgA with burst := some ⟨1, 11#32, [1024#16], false⟩ } : State).burst = some ⟨1, 11#32, [1024#16], false⟩ ∧
    (⟨1, 11#32, [1024#16], false⟩ : Burst).codes.length + 1 < cfgA.params.v + cfgA.params.ct ∧
    ([] : List Code).length < cfgA.params.v + cfgA.params.ct ∧
    [1024#16, 2048#16].length < cfgA.params.v + cfgA.params.ct := by decide

theorem witness_VoltageRmsIsTheLoopOfR174 : 1 ≤ cfgA.params.v + cfgA.params.ct := by decide

theorem witness_PowerIsTheLoopOfR190 : 1 ≤ busy.params.v + busy.params.ct := by decide

theorem witness_CountIsNumberOfSamples : 1 ≤ Params.reference.v + Params.reference.ct := by decide

theorem witness_FrameReadsStayInRange :
    paramsLegal Params.reference = true ∧ Params.reference.v + Params.reference.ct ≤ 3 ∧
    2 < Params.reference.v + Params.reference.ct ∧
    1 < Params.reference.ct ∧ 0 < count Params.reference (Params.reference.v + 1) 3 := by decide +kernel

theorem witness_FirstFrameAddsNoEnergy :
    cfgA.tsValid = false ∧ cfgA.energy.length = cfgA.params.ct ∧
    cfgA.params.v + cfgA.params.ct ≤ [1024#16, 2048#16, 0#16].length := by decide

/-- An equal timestamp (AR12) and a wrapped one (AR14). -/
theorem witness_NonMonotonicFrameSkipsEnergy :
    (let s : State := { cfgA with tsValid := true, lastTimestampMs := 3601000#32 }
     s.tsValid = true ∧ (3601000#32 : Timestamp).toNat ≤ s.lastTimestampMs.toNat ∧ s.energy.length = s.params.ct ∧
     s.params.v + s.params.ct ≤ [1024#16, 2048#16, 0#16].length) ∧
    (let s : State := { cfgA with tsValid := true, lastTimestampMs := 0xFFFFFFFF#32 }
     (0#32 : Timestamp).toNat ≤ s.lastTimestampMs.toNat) := by decide

/-- The smallest difference (AR7) and the largest (AR11), on the last and the first channel; the elapsed hours compare
above zero. -/
theorem witness_AdvancingFrameAddsEnergy :
    (let s : State := { cfgA with tsValid := true, lastTimestampMs := 1000#32 }
     s.tsValid = true ∧ s.lastTimestampMs.toNat < (1001#32 : Timestamp).toNat ∧
     1 < min s.params.ct s.params.ctProcMax ∧ s.params.v + s.params.ct ≤ [1024#16, 2048#16, 0#16].length ∧
     fgt (fdiv (i2f (((1001#32 : Timestamp).toNat : Int) - (s.lastTimestampMs.toNat : Int))) 0x4A5BBA00#32)
       0x00000000#32 = true) ∧
    (let s : State := { cfgA with tsValid := true }
     s.lastTimestampMs.toNat < (0xFFFFFFFF#32 : Timestamp).toNat ∧ 0 < min s.params.ct s.params.ctProcMax) := by
  decide +kernel

/-- A record in which no pattern is above another: the clause in which the elapsed hours do not compare above zero. -/
theorem witness_AdvancingFrameAddsEnergy_skipped :
    ({ defaultNumerics with fgt := fun _ _ => false } : Numerics).fgt 0x3F800000#32 0x00000000#32 = false := rfl

theorem witness_UnprocessedChannelsReportZero :
    let s : State := State.resetOf { Params.reference with ctProcMax := 1 }
    min s.params.ct s.params.ctProcMax ≤ 1 ∧ 1 < s.params.ct ∧
      s.params.v + s.params.ct ≤ [1024#16, 2048#16, 0#16].length := by decide

/-- PF1, the computed branch on channel 0 and the held one on channel 1. -/
theorem witness_PowerFactorBranches :
    let F := [1024#16, 2048#16, 0#16]
    (0 < min cfgA.params.ct cfgA.params.ctProcMax ∧ 1 < min cfgA.params.ct cfgA.params.ctProcMax ∧
      cfgA.params.v + cfgA.params.ct ≤ F.length) ∧
    fgt (fmul (vrms defaultNumerics cfgA F 0) (irms defaultNumerics cfgA F 0)) 0x3C23D70A#32 = true ∧
    fgt (fmul (vrms defaultNumerics cfgA F 0) (irms defaultNumerics cfgA F 1)) 0x3C23D70A#32 = false := by
  decide +kernel

theorem value_of_one : value 0x3F800000#32 = 1 := by
  have h1 : signBit 0x3F800000#32 = false := by decide
  have h2 : significand 0x3F800000#32 = 2 ^ 23 := by decide
  have h3 : scaleExp 0x3F800000#32 = -23 := by decide
  rw [value, h1, h2, h3]; norm_num

theorem value_of_minus_two : value 0xC0000000#32 = -2 := by
  have h1 : signBit 0xC0000000#32 = true := by decide
  have h2 : significand 0xC0000000#32 = 2 ^ 23 := by decide
  have h3 : scaleExp 0xC0000000#32 = -22 := by decide
  rw [value, h1, h2, h3]; norm_num

theorem value_of_two : value 0x40000000#32 = 2 := by
  have h1 : signBit 0x40000000#32 = false := by decide
  have h2 : significand 0x40000000#32 = 2 ^ 23 := by decide
  have h3 : scaleExp 0x40000000#32 = -22 := by decide
  rw [value, h1, h2, h3]; norm_num

/-- A NaN, an infinity, both ends of the interval's inside, and both sides outside. -/
theorem witness_ClampKeepsUnitInterval :
    isNaN 0x7FC00000#32 = true ∧ isNaN 0x7F800000#32 = false ∧
    (isFinite 0x3F800000#32 = true ∧ -1 ≤ value 0x3F800000#32 ∧ value 0x3F800000#32 ≤ 1) ∧
    (isFinite 0xC0000000#32 = true ∧ value 0xC0000000#32 < -1) ∧
    (isFinite 0x40000000#32 = true ∧ 1 < value 0x40000000#32) := by
  rw [value_of_one, value_of_minus_two, value_of_two]
  exact ⟨by decide, by decide, ⟨by decide, by norm_num, by norm_num⟩, ⟨by decide, by norm_num⟩, by decide, by norm_num⟩

theorem witness_ApparentPowerIsReportedProduct :
    cfgA.params.ref < cfgA.params.v ∧ 1 < min cfgA.params.ct cfgA.params.ctProcMax ∧
    cfgA.params.v + cfgA.params.ct ≤ [1024#16, 2048#16, 0#16].length ∧
    (processFrame defaultNumerics cfgA [1024#16, 2048#16, 0#16] 1000#32).flags.rpt = true := by decide +kernel

/-- The frame that ends a cycle, with the report slot full and empty, and one that does not. -/
theorem witness_ReportTimerAndHandOff :
    let full : State := { cfgA with rslot := some ⟨assembleReport defaultNumerics cfgA [] 0#32, 0#32⟩ }
    cfgA.params.v + cfgA.params.ct ≤ [1024#16, 2048#16, 0#16].length ∧
    (cfgA.framesSinceReport + 1#32 = cfgA.reportCycles ∧ cfgA.rslot.isSome = false) ∧
    (full.framesSinceReport + 1#32 = full.reportCycles ∧ full.rslot.isSome = true) ∧
    ({ cfgA with reportCycles := 3#32 } : State).framesSinceReport + 1#32 ≠ 3#32 := by
  refine ⟨by decide, ⟨by decide, rfl⟩, ⟨by decide, rfl⟩, by decide⟩

theorem witness_ExactlyOneReportPerCycle :
    paramsLegal { Params.reference with reportCycles := 0xFFFFFFFF#32 } = true ∧ paramsLegal Params.reference = true ∧
    ∀ f ∈ List.replicate 4 ([1024#16, 2048#16, 0#16], 9#32),
      Params.reference.v + Params.reference.ct ≤ f.1.length := by
  refine ⟨by decide +kernel, by decide +kernel, fun f hf => ?_⟩
  rw [List.eq_of_mem_replicate hf]; decide

theorem witness_ReportIsSnapshotOfFrame :
    (processFrame defaultNumerics cfgA [4095#16, 0#16, 1#16] 0#32).flags.rpt = true ∧
    0 < cfgA.params.v ∧ 1 < min cfgA.params.ct cfgA.params.ctProcMax := by decide +kernel

theorem witness_ReportWordOffsets :
    ReportShape Params.reference ⟨[1#32], [2#32, 3#32], [4#32, 5#32], [6#32, 7#32], [8#32, 9#32], 10#32,
      [11#32, 12#32]⟩ ∧ 0 < Params.reference.v ∧ 1 < Params.reference.ct :=
  ⟨⟨rfl, rfl, rfl, rfl, rfl, rfl⟩, by decide, by decide⟩

/-- With no burst in transit, and with one. -/
theorem witness_MeterAgreesWithFrame :
    paramsLegal busy.params = true ∧ busy.fslot = some ⟨[1024#16, 2048#16, 0#16], 7#32⟩ ∧ busy.burst = none ∧
    [1024#16, 2048#16, 0#16].length ≤ busy.params.frameMax ∧
    codesInRange busy.params [1024#16, 2048#16, 0#16] ∧ cfgA.fslot = none ∧
    ({ busy with burst := some ⟨1, 0#32, [], true⟩ } : State).fslot.isSome = true :=
  ⟨by decide +kernel, rfl, rfl, by decide, codesInRange_of_all (by decide +kernel), rfl, rfl⟩

/-- With a frame waiting for the METER step. -/
theorem witness_PushCommutesWithMeter :
    let s : State := { busy with asmFill := 1 }
    s.asmFill + 1 < s.params.v + s.params.ct ∧ s.fslot.isSome = true := by decide

/-- The last channel and the first index beyond it. -/
theorem witness_SetvIsBoundsChecked :
    (0#8).toNat < cfgA.params.v ∧ cfgA.params.v ≤ (1#8).toNat ∧ cfgA.params.v ≤ (255#8).toNat := by decide

/-- The last channel and the first index beyond it. -/
theorem witness_SetiIsBoundsChecked :
    (1#8).toNat < cfgA.params.ct ∧ cfgA.params.ct ≤ (2#8).toNat ∧ cfgA.params.ct ≤ (255#8).toNat := by decide

theorem witness_SettersIdempotentAndCommuting :
    let s : State := State.resetOf { Params.reference with v := 2 }
    0#8 ≠ 1#8 ∧ (0#8).toNat < s.params.v ∧ (1#8).toNat < s.params.v ∧ (0#8).toNat < s.params.ct ∧
      (1#8).toNat < s.params.ct := by decide

theorem witness_PoprDeliversAndEmpties :
    ({ cfgA with rslot := some ⟨⟨[], [], [], [], [], 0#32, []⟩, 5#32⟩ } : State).rslot =
      some ⟨⟨[], [], [], [], [], 0#32, []⟩, 5#32⟩ ∧ cfgA.rslot = none := by decide

theorem witness_ResetMeetsInvariants :
    paramsLegal { Params.reference with v := 255, ct := 255, adcBits := 16, ref := 254, frameMax := 510 } = true := by
  decide +kernel

theorem busy_shape : Shape busy where
  legal := by decide +kernel
  vcal := rfl
  ical := rfl
  phaseCal := rfl
  energy := rfl
  pfHold := rfl
  reportCycles := rfl
  mainsFrequency := rfl
  framesSinceReport := by decide
  asmFill := by decide
  abuf := rfl
  abufCodes := codesInRange_of_all (by decide +kernel)
  fslot := by
    intro e he
    obtain rfl := Option.some.inj he
    exact ⟨rfl, codesInRange_of_all (by decide +kernel)⟩
  rslot := by intro e he; cases he
  burst := by intro b hb; cases hb

/-- `busy` takes a METER step, and the state after it still has its buffer half full. -/
theorem witness_StepKeepsShape :
    Shape busy ∧ ∃ t, step busy = .next t ∧ t.fslot = none ∧ t.asmFill = 2 := by
  refine ⟨busy_shape, meterTurn (useTurn busy), ?_, rfl, rfl⟩
  have h1 : paramsLegal busy.params = true := by decide +kernel
  have h2 : nextTurn busy = .meter := by decide +kernel
  simp only [step, h1, h2, if_true]

theorem witness_ShapedMachineNeverStops : Shape busy := busy_shape

/-- The frame of `busy` overflows nowhere (R199's premise). -/
theorem busy_noOverflow : NoOverflow busy [1024#16, 2048#16, 0#16] where
  codeStep := by decide +kernel
  voltageScale := by decide +kernel
  currentScale := by decide +kernel
  voltages := by decide +kernel
  currents := by decide +kernel
  products := by decide +kernel
  sums := by decide +kernel

theorem busy_holds {Q : F32 → Prop} (h : Q 0x00000000#32) : PowerFactorsAll Q busy := by
  refine ⟨fun x hx => ?_, fun e he => nomatch he⟩
  have hx' : x ∈ List.replicate 2 0x00000000#32 := hx
  rw [List.eq_of_mem_replicate hx']
  exact h

/-- `busy` takes its METER step with the frame of RM1; all clauses have their hypotheses together. -/
theorem witness_StepKeepsPowerFactorsInRange :
    busy.params.numerics = .ieee754 ∧ (∃ t, step busy = .next t) ∧ HoldsInRange busy ∧
    PowerFactorsAll pfInRange busy ∧ PowerFactorsAll pfInUnit busy ∧
    stepFrame busy = some [1024#16, 2048#16, 0#16] ∧
    busy.params.v + busy.params.ct ≤ [1024#16, 2048#16, 0#16].length ∧
    (∀ F, stepFrame busy = some F → busy.params.v + busy.params.ct ≤ F.length → NoOverflow busy F) := by
  have hf : stepFrame busy = some [1024#16, 2048#16, 0#16] := by decide +kernel
  have hr : pfInRange 0x00000000#32 := Or.inr (by decide +kernel)
  have hz : value 0x00000000#32 = 0 := by
    have h : significand 0x00000000#32 = 0 := by decide
    rw [value, h]; simp
  obtain ⟨-, t, ht, -⟩ := witness_StepKeepsShape
  refine ⟨rfl, ⟨t, ht⟩, (busy_holds hr).1, busy_holds hr, busy_holds ⟨by decide, ?_, ?_⟩, hf, by decide, ?_⟩
  · rw [hz]; norm_num
  · rw [hz]; norm_num
  · intro F hF _
    rw [hf] at hF
    exact Option.some.inj hF ▸ busy_noOverflow

/-- The frame of a step that takes the last data word of a burst. -/
theorem test_stepFrame_burst :
    stepFrame { burstOfTwo false with port := [0x0300000000000000#64] } = some [1024#16, 2048#16, 0#16] ∧
    stepFrame { burstOfTwo true with port := [0x0300000000000000#64] } = none := by decide +kernel

theorem witness_StepKeepsIdleLanesAndIndicators :
    (∃ t, step busy = .next t) ∧
    IdleLanes (State.resetOf { Params.reference with ctProcMax := 1 }) ∧ DropsIndicated busy := by
  refine ⟨?_, ?_, by unfold DropsIndicated; decide⟩
  · obtain ⟨-, t, ht, -⟩ := witness_StepKeepsShape; exact ⟨t, ht⟩
  · intro c h1 h2
    have h1' : 1 ≤ c := h1
    have h2' : c < 2 := h2
    obtain rfl : c = 1 := by omega
    exact ⟨rfl, rfl⟩

theorem witness_ReadOnlyAndStickyState : ∃ t, step busy = .next t := by
  obtain ⟨-, t, ht, -⟩ := witness_StepKeepsShape; exact ⟨t, ht⟩

/-- `RSTE` on an accumulator that is not 0. -/
theorem witness_EnergyChangesOnlyByFrameOrRste :
    let s : State := { cfgA with energy := [1#32, 0#32], port := [0x0600000000000000#64] }
    ∃ t, step s = .next t ∧ t.energy ≠ s.energy := by
  refine ⟨({ cfgA with energy := [0#32, 0#32] } : State).answer .ok {} [], rfl, by decide⟩

/-- The least subnormal and the largest finite pattern. -/
theorem witness_AddAndMultiplyRoundCorrectly :
    isFinite 0x00000001#32 = true ∧ isFinite 0xFF7FFFFF#32 = true := by decide

theorem witness_DivideAndRootRoundCorrectly :
    isFinite 0x40000000#32 = true ∧ isFinite 0xC0000000#32 = true ∧ value 0xC0000000#32 ≠ 0 ∧
    0 ≤ value 0x40000000#32 := by
  rw [value_of_minus_two, value_of_two]; exact ⟨by decide, by decide, by norm_num, by norm_num⟩

theorem witness_SpecialOperands :
    isNaN 0x7F800001#32 = true ∧
    (isInf 0x7F800000#32 = true ∧ isFinite 0x00000001#32 = true ∧ isZero 0x00000001#32 = false ∧
      isNaN 0xFF800000#32 = false ∧ isZero 0xFF800000#32 = false ∧ isFinite 0x80000000#32 = true) ∧
    (isInf 0x7F800000#32 = true ∧ isInf 0xFF800000#32 = true ∧ signBit 0x7F800000#32 ≠ signBit 0xFF800000#32) ∧
    isZero 0x80000000#32 = true ∧ isZero 0x00000000#32 = true ∧
    (isFinite 0xC0000000#32 = true ∧ value 0xC0000000#32 < 0 ∧ isZero 0xC0000000#32 = false) ∧
    isNaN (fmul 0xC0000000#32 0x40000000#32) = false ∧ isNaN (fdiv 0xC0000000#32 0x40000000#32) = false := by
  rw [value_of_minus_two]
  exact ⟨by decide, by decide, by decide, by decide, by decide, ⟨by decide, by norm_num, by decide⟩, by decide +kernel,
    by decide +kernel⟩

theorem witness_ComparisonsAreOfValues :
    isFinite 0x80000000#32 = true ∧ isFinite 0x7F7FFFFF#32 = true ∧ isNaN 0xFFFFFFFF#32 = true := by decide

theorem witness_ConversionsRoundCorrectly :
    2 ^ 24 ≤ 2 ^ 24 ∧ ((1 : Int) ≤ 2 ^ 24 ∧ (2 ^ 24 : Int) ≤ 2 ^ 24) ∧
    ((1 : Int) ≤ 2 ^ 32 - 1 ∧ (2 ^ 32 - 1 : Int) ≤ 2 ^ 32 - 1) := by norm_num

end Sys2Proof.Tests
end

section
/-! PROOFS. The register operations a step is made of, and the rule that every proof about "each step keeps it" cites:
what every register operation keeps, every step keeps (spec/00_scope.md R10, spec/10_state.md R20). -/

namespace Sys2Proof.Machine

/-! ### What the decoder guarantees of an instruction -/

/-- The decoder answers only instructions whose operands are in range (R96 d, e; R98). -/
theorem wellFormed_of_decode {p : Params} {w : CommandWord} {i : Instr} (h : decode p w = .ok i) :
    i.wellFormed p = true := by
  unfold decode at h
  split at h <;> simp only [decodeN_eq_ok, checked_eq_ok, reduceCtorEq, true_and] at h
  case h_2 | h_3 | h_4 => obtain ⟨-, hr, rfl⟩ := h; exact hr
  all_goals obtain ⟨-, rfl⟩ := h; rfl

/-- A word read in its context, inside a burst or not, has its operands in range (R94, R98). -/
theorem wellFormed_of_decodeWord {s : State} {w : CommandWord} {i : Instr} (h : decodeWord s w = .ok i) :
    i.wellFormed s.params = true := by
  unfold decodeWord at h
  cases hb : s.burst.isSome with
  | false => rw [hb, decodeIn_false] at h; exact wellFormed_of_decode h
  | true =>
    rw [hb, decodeIn_true_eq_ok] at h
    obtain ⟨code, rfl, hd⟩ := h
    exact wellFormed_of_decode hd

/-! ### The register operations -/

/-- One operation on the registers of R20. A step performs some of them, one after another. -/
inductive RegisterOp (s : State) : State → Prop where
  /-- the model's own fields change, no register of R20 does -/
  | ports (pt : List CommandWord) (tn : List Turn) (bu : Option Burst) (rs : Option Response) :
      RegisterOp s { s with port := pt, turns := tn, burst := bu, response := rs }
  /-- the Metering tier takes the entry of `fslot` (R232) -/
  | takeFrame : RegisterOp s { s with fslot := none }
  /-- `POPR` takes the entry of `rslot` (R260) -/
  | takeReport : RegisterOp s { s with rslot := none }
  /-- a sample that does not complete its scan is stored (R120) -/
  | storeSample (code : Code) (hc : codeInRange s.params code = true) (hf : s.asmFill + 1 < s.params.vctTotal) :
      RegisterOp s { s with abuf := s.abuf.set s.asmFill code, asmFill := s.asmFill + 1 }
  /-- the last sample of a scan is stored and the scan handed over (R120 to R122) -/
  | handOver (code : Code) (ts : Timestamp) (hc : codeInRange s.params code = true)
      (hf : s.asmFill + 1 = s.params.vctTotal) :
      RegisterOp s { putFrame { s with abuf := s.abuf.set s.asmFill code } ⟨s.abuf.set s.asmFill code, ts⟩ with
        asmFill := 0 }
  /-- R252 -/
  | setVcal (ch : Nat) (scale : F32) : RegisterOp s { s with vcal := s.vcal.set ch scale }
  /-- R254 -/
  | setIcal (ch : Nat) (scale : F32) : RegisterOp s { s with ical := s.ical.set ch scale }
  /-- R256 -/
  | zeroEnergy : RegisterOp s { s with energy := s.energy.map fun _ => fZero }
  /-- R126 -/
  | countOverrun : RegisterOp s { s with overrunCount := satIncr s.overrunCount }
  /-- PROCESS_FRAME accepts a frame (R228) -/
  | accept (F : List Code) (ts : Timestamp) (hF : s.params.vctTotal ≤ F.length) :
      RegisterOp s (acceptFrame (numericsOf s.params) s F ts).state

/-- Register operations one after another. -/
abbrev RegisterOps : State → State → Prop := Relation.ReflTransGen RegisterOp

theorem registerOps_answer (s : State) (code : RespCode) (flags : RespFlags) (data : List Word32) :
    RegisterOps s (s.answer code flags data) := .single (.ports s.port s.turns s.burst _)

/-- An operation and the answer of its command. -/
theorem RegisterOp.answered {s t : State} (h : RegisterOp s t) (code : RespCode) (flags : RespFlags)
    (data : List Word32) : RegisterOps s (t.answer code flags data) := (registerOps_answer t code flags data).head h

theorem registerOps_processFrame (s : State) (F : List Code) (ts : Timestamp) :
    RegisterOps s (processFrame (numericsOf s.params) s F ts).state := by
  rcases processFrame_cases (numericsOf s.params) s F ts with ⟨-, h⟩ | ⟨hF, h⟩
  · rw [h]
  · rw [h]; exact .single (.accept F ts hF)

theorem registerOps_finishFrame (s : State) (b : Burst) : RegisterOps s (finishFrame s b) := by
  rcases finishFrame_cases s b with ⟨-, h⟩ | ⟨-, h⟩
  · rw [h]; exact registerOps_answer s _ _ _
  · rw [h]; exact (registerOps_processFrame s b.codes b.ts).trans (registerOps_answer _ _ _ _)

theorem registerOps_openBurst (s : State) (len : Nat) (ts : Timestamp) : RegisterOps s (openBurst s len ts) := by
  unfold openBurst
  split
  · exact registerOps_finishFrame s _
  · exact .single (.ports s.port s.turns _ _)

theorem registerOps_takeDataWord (s : State) (b : Burst) (d : Option Code) : RegisterOps s (takeDataWord s b d) := by
  rcases takeDataWord_cases s b d with ⟨-, h⟩ | ⟨-, h⟩
  · rw [h]; exact (registerOps_finishFrame _ _).head (.ports s.port s.turns none s.response)
  · rw [h]; exact .single (.ports s.port s.turns _ _)

theorem registerOps_rejectWord (s : State) : RegisterOps s (rejectWord s) := by
  rcases rejectWord_cases s with ⟨-, h⟩ | ⟨b, -, h⟩
  · rw [h]; exact registerOps_answer s _ _ _
  · rw [h]; exact registerOps_takeDataWord s b none

theorem registerOps_meterTurn (s : State) : RegisterOps s (meterTurn s) := by
  cases h : s.fslot with
  | none => rw [meterTurn_idle h]
  | some e =>
    rw [meterTurn_enabled h]
    have hp := (registerOps_processFrame { s with fslot := none } e.frame e.ts).head RegisterOp.takeFrame
    exact hp.tail (.ports _ _ _ none)

theorem registerOps_exec {i : Instr} {s t : State} (hi : i.wellFormed s.params = true) (h : exec i s = .next t) :
    RegisterOps s t := by
  cases i with
  | push code ts =>
    rcases execPush_next_cases h with ⟨-, ⟨hf, rfl⟩ | ⟨hf, rfl⟩⟩
    · exact (RegisterOp.storeSample code hi hf).answered _ _ _
    · exact (RegisterOp.handOver code ts hi hf).answered _ _ _
  | frame len ts => obtain rfl := next_inj.1 h; exact registerOps_openBurst s _ ts
  | fdat code =>
    rcases execFdat_next_cases h with ⟨-, rfl⟩ | ⟨b, -, rfl⟩
    · exact registerOps_answer s _ _ _
    · exact registerOps_takeDataWord s b _
  | setv ch scale =>
    rcases execSetv_next_cases h with ⟨-, rfl⟩ | ⟨-, rfl⟩
    · exact registerOps_answer s _ _ _
    · exact (RegisterOp.setVcal _ scale).answered _ _ _
  | seti ch scale =>
    rcases execSeti_next_cases h with ⟨-, rfl⟩ | ⟨-, rfl⟩
    · exact registerOps_answer s _ _ _
    · exact (RegisterOp.setIcal _ scale).answered _ _ _
  | rste => obtain rfl := next_inj.1 h; exact RegisterOp.zeroEnergy.answered _ _ _
  | popr =>
    rcases execPopr_next_cases h with ⟨-, rfl⟩ | ⟨e, -, rfl⟩
    · exact registerOps_answer s _ _ _
    · exact RegisterOp.takeReport.answered _ _ _
  | ovrn => obtain rfl := next_inj.1 h; exact RegisterOp.countOverrun.answered _ _ _
  | nop | gete | diag => obtain rfl := next_inj.1 h; exact registerOps_answer s _ _ _

/-- Every step is a sequence of register operations. -/
theorem registerOps_of_step {s t : State} (h : step s = .next t) : RegisterOps s t := by
  have hturn : RegisterOp s (useTurn s) := .ports s.port _ s.burst s.response
  have hword : RegisterOp s (consumeWord (useTurn s)) := .ports _ _ s.burst s.response
  obtain ⟨-, ⟨-, rfl⟩ | ⟨-, -, rfl⟩ | ⟨-, w, rest, -, ⟨i, hd, he⟩ | ⟨e, -, rfl⟩⟩⟩ := step_next_cases h
  · exact (registerOps_meterTurn _).head hturn
  · exact .single hturn
  · have hi : i.wellFormed s.params = true := wellFormed_of_decodeWord hd
    exact (registerOps_exec (s := consumeWord (useTurn s)) hi he).head hword
  · exact (registerOps_rejectWord _).head hword

/-- What every register operation keeps, every sequence of them keeps. -/
theorem registerOps_keep {P : State → Prop} (hop : ∀ a b, RegisterOp a b → P a → P b) {s t : State}
    (h : RegisterOps s t) (hs : P s) : P t := by
  induction h with
  | refl => exact hs
  | tail _ hab ih => exact hop _ _ hab ih

/-- What every register operation keeps, every step keeps. -/
theorem step_keeps {P : State → Prop} (hop : ∀ a b, RegisterOp a b → P a → P b) {s t : State}
    (h : step s = .next t) (hs : P s) : P t := registerOps_keep hop (registerOps_of_step h) hs

end Sys2Proof.Machine
end

section
/-! PROOFS. O50: every step keeps the shape of the state (spec/10_state.md R20, R28, R35 to R39). The registers are
followed one register operation at a time, and the burst in transit one word at a time. -/

namespace Sys2Proof.Machine

/-! ### Codes and reports -/

theorem codesInRange_set {p : Params} {codes : List Code} {code : Code} (n : Nat) (h : codesInRange p codes)
    (hc : codeInRange p code = true) : codesInRange p (codes.set n code) := by
  intro c hmem
  rcases List.mem_or_eq_of_mem_set hmem with hold | rfl
  · exact h c hold
  · exact hc

theorem codesInRange_append {p : Params} {as bs : List Code} (ha : codesInRange p as) (hb : codesInRange p bs) :
    codesInRange p (as ++ bs) := by
  intro c hc
  rcases List.mem_append.1 hc with h | h
  · exact ha c h
  · exact hb c h

@[simp] theorem channelResults_length (N : Numerics) (s : State) (F : List Code) (ts : Timestamp) :
    (channelResults N s F ts).length = s.params.ct := by
  simp [channelResults]

/-- Every assembled report has the arrays of R104, whatever the frame. -/
theorem reportShape_assembleReport (N : Numerics) (s : State) (F : List Code) (ts : Timestamp) :
    ReportShape s.params (assembleReport N s F ts) := by
  constructor <;> simp [assembleReport]

/-- An accepted frame either ends the report cycle, and the counter restarts, or leaves it one higher and still below
`report_cycles` (R28, R234). -/
theorem updateEngine_framesSinceReport_lt (N : Numerics) {s : State} (F : List Code) (ts : Timestamp)
    (h : s.framesSinceReport.toNat < s.reportCycles.toNat) :
    (updateEngine N s F ts).framesSinceReport.toNat < s.reportCycles.toNat := by
  have hlt := s.reportCycles.isLt
  have hsucc : (s.framesSinceReport + 1#32).toNat = s.framesSinceReport.toNat + 1 := by
    rw [BitVec.toNat_add, BitVec.toNat_ofNat]; omega
  rw [updateEngine_framesSinceReport]
  split
  · simp only [BitVec.toNat_ofNat]; omega
  · next he =>
    have hne : s.framesSinceReport + 1#32 ≠ s.reportCycles := by simpa [emits] using he
    have hne' := mt BitVec.eq_of_toNat_eq hne
    omega

/-! ### The registers -/

/-- A state without its burst is well shaped after a register operation if it was before. -/
theorem RegisterOp.keeps_shape {s t : State} (h : RegisterOp s t) (hs : Shape { s with burst := none }) :
    Shape { t with burst := none } := by
  cases h with
  | ports => exact { hs with }
  | takeFrame => exact { hs with fslot := nofun }
  | takeReport => exact { hs with rslot := nofun }
  | storeSample code hc hf =>
    exact { hs with
      asmFill := hf
      abuf := (List.length_set ..).trans hs.abuf
      abufCodes := codesInRange_set _ hs.abufCodes hc }
  | handOver code ts hc hf =>
    have hlen : (s.abuf.set s.asmFill code).length = s.params.vctTotal := (List.length_set ..).trans hs.abuf
    have hcodes := codesInRange_set s.asmFill hs.abufCodes hc
    exact { hs with
      asmFill := hf ▸ Nat.succ_pos _
      abuf := hlen
      abufCodes := hcodes
      fslot := fun e he => Option.some.inj he ▸ ⟨hlen, hcodes⟩ }
  | setVcal ch scale => exact { hs with vcal := (List.length_set ..).trans hs.vcal }
  | setIcal ch scale => exact { hs with ical := (List.length_set ..).trans hs.ical }
  | zeroEnergy => exact { hs with energy := (List.length_map ..).trans hs.energy }
  | countOverrun => exact { hs with }
  | accept F ts hF =>
    have hcount := updateEngine_framesSinceReport_lt (numericsOf s.params) (s := s) F ts hs.framesSinceReport
    have henergy : ((channelResults (numericsOf s.params) s F ts).map (·.energy)).length = s.params.ct := by simp
    have hhold : ((channelResults (numericsOf s.params) s F ts).map (·.hold)).length = s.params.ct := by simp
    cases hemits : emits s with
    | true =>
      rw [acceptFrame_state_emitting hemits]
      exact { hs with
        energy := henergy
        pfHold := hhold
        framesSinceReport := hcount
        rslot := fun e he => Option.some.inj he ▸ reportShape_assembleReport _ s F ts }
    | false =>
      rw [acceptFrame_state_silent hemits]
      exact { hs with energy := henergy, pfHold := hhold, framesSinceReport := hcount }

/-! ### The burst in transit -/

/-- A burst in transit waits for a word, fits with it in the longest frame, and holds codes in range (R94, R96 e). -/
def BurstFits (s : State) : Prop :=
  ∀ b, s.burst = some b →
    1 ≤ b.remaining ∧ b.codes.length + b.remaining ≤ s.params.frameMax ∧ codesInRange s.params b.codes

/-- The shape of a state is that of its registers and that of its burst. -/
theorem shape_iff (s : State) : Shape s ↔ Shape { s with burst := none } ∧ BurstFits s :=
  ⟨fun h => ⟨{ h with burst := nofun }, h.burst⟩, fun ⟨hr, hb⟩ => { hr with burst := hb }⟩

/-- Only the parameters and the burst are read. -/
theorem BurstFits.congr {s t : State} (h : BurstFits s) (hp : t.params = s.params) (hb : t.burst = s.burst) :
    BurstFits t := by
  unfold BurstFits
  rw [hp, hb]
  exact h

theorem burstFits_of_none {s : State} (h : s.burst = none) : BurstFits s := by
  intro b hb
  rw [h] at hb
  cases hb

/-- A header opens a burst of at most `FRAME_MAX` words (R96 e). -/
theorem BurstFits.openBurst {s : State} (h : BurstFits s) {len : Nat} (hlen : len ≤ s.params.frameMax)
    (ts : Timestamp) : BurstFits (openBurst s len ts) := by
  unfold Machine.openBurst
  split
  · exact h.congr (by simp) (by simp)
  · intro b hb
    obtain rfl := Option.some.inj hb
    exact ⟨by dsimp only; omega, by simpa using hlen, nofun⟩

/-- A data word moves one word from those to come to those that have come (R94). -/
theorem BurstFits.takeDataWord {s : State} {b : Burst} (h : BurstFits s) (hb : s.burst = some b) {d : Option Code}
    (hd : codesInRange s.params d.toList) : BurstFits (takeDataWord s b d) := by
  obtain ⟨-, hfit, hcodes⟩ := h b hb
  rcases takeDataWord_cases s b d with ⟨-, ht⟩ | ⟨hrem, ht⟩
  · exact burstFits_of_none (by rw [ht, finishFrame_burst])
  · intro b' hb'
    rw [ht] at hb'
    obtain rfl := Option.some.inj hb'
    have hone : d.toList.length ≤ 1 := by cases d <;> simp
    rw [takeDataWord_params]
    refine ⟨by dsimp only; omega, ?_, codesInRange_append hcodes hd⟩
    simp only [List.length_append]
    omega

theorem BurstFits.rejectWord {s : State} (h : BurstFits s) : BurstFits (rejectWord s) := by
  rcases rejectWord_cases s with ⟨-, ht⟩ | ⟨b, hb, ht⟩
  · rw [ht]; exact h
  · rw [ht]; exact h.takeDataWord hb nofun

theorem BurstFits.exec {i : Instr} {s t : State} (hs : BurstFits s) (hi : i.wellFormed s.params = true)
    (h : exec i s = .next t) : BurstFits t := by
  cases i with
  | push code ts => rcases execPush_next_cases h with ⟨-, ⟨-, rfl⟩ | ⟨-, rfl⟩⟩ <;> exact hs
  | frame len ts => obtain rfl := next_inj.1 h; exact hs.openBurst (of_decide_eq_true hi) ts
  | fdat code =>
    rcases execFdat_next_cases h with ⟨-, rfl⟩ | ⟨b, hb, rfl⟩
    · exact hs
    · exact hs.takeDataWord hb fun c hc => List.mem_singleton.1 hc ▸ hi
  | setv ch scale => rcases execSetv_next_cases h with ⟨-, rfl⟩ | ⟨-, rfl⟩ <;> exact hs
  | seti ch scale => rcases execSeti_next_cases h with ⟨-, rfl⟩ | ⟨-, rfl⟩ <;> exact hs
  | popr => rcases execPopr_next_cases h with ⟨-, rfl⟩ | ⟨e, -, rfl⟩ <;> exact hs
  | nop | rste | gete | ovrn | diag => obtain rfl := next_inj.1 h; exact hs

theorem BurstFits.step {s t : State} (hs : BurstFits s) (h : step s = .next t) : BurstFits t := by
  obtain ⟨-, ⟨-, rfl⟩ | ⟨-, -, rfl⟩ | ⟨-, w, rest, -, ⟨i, hd, he⟩ | ⟨e, -, rfl⟩⟩⟩ := step_next_cases h
  · exact hs.congr (by simp) (by simp)
  · exact hs
  · have hi : i.wellFormed s.params = true := wellFormed_of_decodeWord hd
    exact BurstFits.exec (s := consumeWord (useTurn s)) hs hi he
  · exact BurstFits.rejectWord (s := consumeWord (useTurn s)) hs

/-! ### The obligation -/

/-- Settles O50: the registers by `step_keeps`, the burst by `BurstFits.step`. -/
theorem stepKeepsShape : Obligations.StepKeepsShape := by
  intro s t hs h
  obtain ⟨hregs, hburst⟩ := (shape_iff s).1 hs
  exact (shape_iff t).2 ⟨step_keeps (P := fun s => Shape { s with burst := none })
    (fun _ _ hop => hop.keeps_shape) h hregs, hburst.step h⟩

end Sys2Proof.Machine
end

section
/-! PROOFS. O53, O54, O55: what a step may change of the idle lanes, the drop indicators, the counters and the
accumulators (spec/10_state.md R27, R33, R40 to R44). -/

namespace Sys2Proof.Machine

/-! ### The lanes of unprocessed channels -/

theorem lane_map_range (f : Nat → F32) {n c : Nat} (h : c < n) : lane ((List.range n).map f) c = f c := by
  simp [lane, h]

/-- `RSTE` leaves `+0.0` in every lane (R256). -/
theorem lane_map_fZero (xs : List F32) (c : Nat) : lane (xs.map fun _ => fZero) c = fZero := by
  rw [lane, List.getD_eq_getElem?_getD, List.getElem?_map]
  cases xs[c]? <;> rfl

/-- An accepted frame leaves the energy of an unprocessed channel alone (R178). -/
theorem lane_acceptFrame_energy_unprocessed {N : Numerics} {s : State} {F : List Code} {ts : Timestamp} {c : Nat}
    (h : s.params.ctActive ≤ c) (hc : c < s.params.ct) :
    lane (acceptFrame N s F ts).state.energy c = lane s.energy c := by
  rw [acceptFrame_energy, channelResults, List.map_map, lane_map_range _ hc]
  simp only [Function.comp, channelResult, if_neg (Nat.not_lt.2 h)]

/-- An accepted frame leaves the held power factor of an unprocessed channel alone (R178). -/
theorem lane_acceptFrame_pfHold_unprocessed {N : Numerics} {s : State} {F : List Code} {ts : Timestamp} {c : Nat}
    (h : s.params.ctActive ≤ c) (hc : c < s.params.ct) :
    lane (acceptFrame N s F ts).state.pfHold c = lane s.pfHold c := by
  rw [acceptFrame_pfHold, channelResults, List.map_map, lane_map_range _ hc]
  simp only [Function.comp, channelResult, if_neg (Nat.not_lt.2 h)]

theorem RegisterOp.keeps_idleLanes {s t : State} (h : RegisterOp s t) (hs : IdleLanes s) : IdleLanes t := by
  cases h with
  | ports | takeFrame | takeReport | storeSample | handOver | setVcal | setIcal | countOverrun => exact hs
  | zeroEnergy => exact fun c h1 h2 => ⟨lane_map_fZero _ c, (hs c h1 h2).2⟩
  | accept F ts hF =>
    intro c h1 h2
    rw [acceptFrame_params] at h1 h2 ⊢
    rw [lane_acceptFrame_energy_unprocessed h1 h2, lane_acceptFrame_pfHold_unprocessed h1 h2]
    exact hs c h1 h2

/-! ### The sticky bits and the drop counters -/

/-- A drop sets the sticky bit of its slot and makes its counter non-zero (R44, R144). -/
theorem getLsbD_or_iff_satIncr_ne_zero (ind : BitVec 2) {m : BitVec 2} {i : Nat} (x : Word32)
    (hm : m.getLsbD i = true) :
    (ind ||| m).getLsbD i = true ↔ satIncr x ≠ 0#32 := by
  simp [hm, satIncr_ne_zero]

/-- The sticky bit of the other slot stays as it was. -/
theorem getLsbD_or_of_not {ind m : BitVec 2} {i : Nat} (hm : m.getLsbD i = false) :
    (ind ||| m).getLsbD i = ind.getLsbD i := by
  simp [hm]

theorem RegisterOp.keeps_dropsIndicated {s t : State} (h : RegisterOp s t) (hs : DropsIndicated s) :
    DropsIndicated t := by
  obtain ⟨hframe, hreport⟩ := hs
  cases h with
  | ports | takeFrame | takeReport | storeSample | setVcal | setIcal | zeroEnergy | countOverrun =>
    exact ⟨hframe, hreport⟩
  | handOver code ts hc hf =>
    simp only [DropsIndicated, putFrame_faultInd, putFrame_frameDropCount, putFrame_reportDropCount]
    split
    · rw [getLsbD_or_of_not (i := 1) (by decide)]
      exact ⟨getLsbD_or_iff_satIncr_ne_zero _ _ (by decide), hreport⟩
    · exact ⟨hframe, hreport⟩
  | accept F ts hF =>
    simp only [DropsIndicated, acceptFrame_faultInd, acceptFrame_frameDropCount, acceptFrame_reportDropCount]
    split
    · rw [getLsbD_or_of_not (i := 0) (by decide)]
      exact ⟨hframe, getLsbD_or_iff_satIncr_ne_zero _ _ (by decide)⟩
    · exact ⟨hframe, hreport⟩

/-- Settles O53, by `step_keeps` for both invariants. -/
theorem stepKeepsIdleLanesAndIndicators : Obligations.StepKeepsIdleLanesAndIndicators := by
  intro s t h
  exact ⟨step_keeps (fun _ _ hop => hop.keeps_idleLanes) h, step_keeps (fun _ _ hop => hop.keeps_dropsIndicated) h⟩

/-! ### Registers that no step writes, bits that no step clears, counters that no step lowers -/

/-- From `s` to `t` no sticky bit was cleared and no diagnostic counter lowered (R40 to R44). -/
structure DiagnosticsAdvance (s t : State) : Prop where
  faultInd : ∀ i < 2, s.faultInd.getLsbD i = true → t.faultInd.getLsbD i = true
  overrunCount : s.overrunCount.toNat ≤ t.overrunCount.toNat
  frameDropCount : s.frameDropCount.toNat ≤ t.frameDropCount.toNat
  reportDropCount : s.reportDropCount.toNat ≤ t.reportDropCount.toNat
  nmCount : s.nmCount.toNat ≤ t.nmCount.toNat

theorem DiagnosticsAdvance.refl (s : State) : DiagnosticsAdvance s s :=
  ⟨fun _ _ h => h, le_rfl, le_rfl, le_rfl, le_rfl⟩

theorem DiagnosticsAdvance.trans {s t u : State} (h : DiagnosticsAdvance s t) (h' : DiagnosticsAdvance t u) :
    DiagnosticsAdvance s u where
  faultInd i hi hs := h'.faultInd i hi (h.faultInd i hi hs)
  overrunCount := h.overrunCount.trans h'.overrunCount
  frameDropCount := h.frameDropCount.trans h'.frameDropCount
  reportDropCount := h.reportDropCount.trans h'.reportDropCount
  nmCount := h.nmCount.trans h'.nmCount

theorem toNat_le_satIncr (x : Word32) : x.toNat ≤ (satIncr x).toNat := by
  have hx := x.isLt
  rw [satIncr_toNat]
  omega

/-- A counter that an event may raise is not lowered. -/
theorem toNat_le_ite_satIncr (event : Bool) (x : Word32) : x.toNat ≤ (if event then satIncr x else x).toNat := by
  cases event
  · exact le_rfl
  · exact toNat_le_satIncr x

/-- Indicators that an event may set are not cleared. -/
theorem getLsbD_ite_or (event : Bool) {ind : BitVec 2} (m : BitVec 2) {i : Nat} (h : ind.getLsbD i = true) :
    (if event then ind ||| m else ind).getLsbD i = true := by
  cases event <;> simp [h]

theorem RegisterOp.diagnosticsAdvance {s t : State} (h : RegisterOp s t) : DiagnosticsAdvance s t := by
  have hs := DiagnosticsAdvance.refl s
  cases h with
  | ports | takeFrame | takeReport | storeSample | setVcal | setIcal | zeroEnergy => exact { hs with }
  | countOverrun => exact { hs with overrunCount := toNat_le_satIncr _ }
  | handOver code ts hc hf =>
    exact { hs with
      faultInd := fun i _ hi => getLsbD_ite_or _ _ hi
      frameDropCount := toNat_le_ite_satIncr _ _ }
  | accept F ts hF =>
    exact {
      faultInd := fun i _ hi => by rw [acceptFrame_faultInd]; exact getLsbD_ite_or _ _ hi
      overrunCount := by rw [acceptFrame_overrunCount]
      frameDropCount := by rw [acceptFrame_frameDropCount]
      reportDropCount := by rw [acceptFrame_reportDropCount]; exact toNat_le_ite_satIncr _ _
      nmCount := by rw [acceptFrame_nmCount]; exact toNat_le_ite_satIncr _ _ }

theorem diagnosticsAdvance_of_step {s t : State} (h : step s = .next t) : DiagnosticsAdvance s t :=
  step_keeps (P := DiagnosticsAdvance s) (fun _ _ hop hs => hs.trans hop.diagnosticsAdvance) h (.refl s)

/-- No step writes the registers that only reset writes (R21, R26, R31, R32, R302). -/
theorem step_keeps_configuration {s t : State} (h : step s = .next t) :
    t.params = s.params ∧ t.phaseCal = s.phaseCal ∧ t.reportCycles = s.reportCycles ∧
      t.mainsFrequency = s.mainsFrequency := by
  obtain ⟨-, ⟨-, rfl⟩ | ⟨-, -, rfl⟩ | ⟨-, w, rest, -, ⟨i, -, he⟩ | ⟨e, -, rfl⟩⟩⟩ := step_next_cases h
  · simp
  · simp
  · exact exec_keeps_configuration (s := consumeWord (useTurn s)) he
  · simp

/-- Settles O54. -/
theorem readOnlyAndStickyState : Obligations.ReadOnlyAndStickyState := by
  intro s t h
  obtain ⟨hbits, hover, hframe, hreport, hnm⟩ := diagnosticsAdvance_of_step h
  exact ⟨step_keeps_configuration h, hbits, hover, hframe, hreport, hnm⟩

/-! ### The accumulators -/

/-- R6: a legal configuration has at least one voltage channel. -/
theorem paramsLegal_v_pos {p : Params} (h : paramsLegal p = true) : 1 ≤ p.v := by
  simp only [paramsLegal, Bool.and_eq_true, decide_eq_true_eq] at h
  omega

/-- A malformed frame changes no accumulator (R94). -/
theorem finishFrame_energy_of_malformed {s : State} {b : Burst} (h : b.malformed = true) :
    (finishFrame s b).energy = s.energy := by
  rcases finishFrame_cases s b with ⟨-, ht⟩ | ⟨hb, -⟩
  · rw [ht, answerIllegal_energy]
  · rw [h] at hb; cases hb

/-- A header changes no accumulator: an empty frame is shorter than any scan (R226). -/
theorem openBurst_energy {s : State} (hv : 1 ≤ s.params.v) (len : Nat) (ts : Timestamp) :
    (openBurst s len ts).energy = s.energy := by
  have hshort : ([] : List Code).length < s.params.vctTotal := Nat.add_pos_left hv _
  unfold openBurst
  split
  · simp [finishFrame, processFrame_short hshort]
  · rfl

/-- A data word that changes an accumulator is the last one of a well-formed burst (R94). -/
theorem takeDataWord_energy_changed {s : State} {b : Burst} {d : Option Code}
    (h : (takeDataWord s b d).energy ≠ s.energy) : b.remaining ≤ 1 ∧ b.malformed = false ∧ d.isSome = true := by
  rcases takeDataWord_cases s b d with ⟨hrem, ht⟩ | ⟨-, ht⟩
  · have hgood : ¬ (b.malformed || d.isNone) = true := fun hm => h (by rw [ht, finishFrame_energy_of_malformed hm])
    simpa [hrem, Option.isSome_iff_ne_none] using hgood
  · exact absurd (by rw [ht]) h

theorem rejectWord_energy (s : State) : (rejectWord s).energy = s.energy := by
  rcases rejectWord_cases s with ⟨-, ht⟩ | ⟨b, -, ht⟩
  · rw [ht, answerIllegal_energy]
  · rw [ht]
    by_contra hne
    obtain ⟨-, -, hd⟩ := takeDataWord_energy_changed hne
    cases hd

/-- An instruction that changes an accumulator is an `RSTE` or the last data word of a well-formed burst (R27). -/
theorem exec_energy_changed {i : Instr} {s t : State} (hv : 1 ≤ s.params.v) (h : exec i s = .next t)
    (hne : t.energy ≠ s.energy) :
    i = .rste ∨ ∃ code b, i = .fdat code ∧ s.burst = some b ∧ b.remaining ≤ 1 ∧ b.malformed = false := by
  cases i with
  | rste => exact .inl rfl
  | fdat code =>
    rcases execFdat_next_cases h with ⟨-, rfl⟩ | ⟨b, hb, rfl⟩
    · exact absurd rfl hne
    · obtain ⟨hrem, hgood, -⟩ := takeDataWord_energy_changed hne
      exact .inr ⟨code, b, rfl, hb, hrem, hgood⟩
  | frame len ts => obtain rfl := next_inj.1 h; exact absurd (openBurst_energy hv _ ts) hne
  | push code ts => rcases execPush_next_cases h with ⟨-, ⟨-, rfl⟩ | ⟨-, rfl⟩⟩ <;> exact absurd rfl hne
  | setv ch scale => rcases execSetv_next_cases h with ⟨-, rfl⟩ | ⟨-, rfl⟩ <;> exact absurd rfl hne
  | seti ch scale => rcases execSeti_next_cases h with ⟨-, rfl⟩ | ⟨-, rfl⟩ <;> exact absurd rfl hne
  | popr => rcases execPopr_next_cases h with ⟨-, rfl⟩ | ⟨e, -, rfl⟩ <;> exact absurd rfl hne
  | nop | gete | ovrn | diag => obtain rfl := next_inj.1 h; exact absurd rfl hne

/-- Settles O55, by the kinds of step of `step_next_cases`. -/
theorem energyChangesOnlyByFrameOrRste : Obligations.EnergyChangesOnlyByFrameOrRste := by
  intro s t h hne
  obtain ⟨hlegal, ⟨hturn, rfl⟩ | ⟨-, -, rfl⟩ | ⟨hturn, w, rest, hport, ⟨i, hd, he⟩ | ⟨e, -, rfl⟩⟩⟩ :=
    step_next_cases h
  · refine .inl ⟨hturn, Option.isSome_iff_ne_none.2 fun hempty => hne ?_⟩
    rw [meterTurn_idle (s := useTurn s) hempty, useTurn_energy]
  · exact absurd rfl hne
  · refine .inr ⟨hturn, w, rest, hport, ?_⟩
    rcases exec_energy_changed (s := consumeWord (useTurn s)) (paramsLegal_v_pos hlegal) he hne with
      rfl | ⟨code, b, rfl, hb, hrem, hgood⟩
    · exact .inl hd
    · exact .inr ⟨code, b, hd, hb, hrem, hgood⟩
  · exact absurd (rejectWord_energy _) hne

end Sys2Proof.Machine
end

section
/-! PROOFS. O48, O49: the state after reset (spec/10_state.md R47, spec/70_reset_and_hazards.md R330), and which
power factors are finite numbers in `[-1, 1]` (R199). -/

namespace Sys2Proof.Machine

/-! ### A pattern that compares inside `[-1, 1]` has its value there -/

theorem orderKey_eq (x : F32) : orderKey x = if signBit x then -(magBits x : Int) else magBits x := by
  simp only [orderKey, magBits, BitVec.extractLsb'_toNat, Nat.shiftRight_zero]

theorem gridValue_one : gridValue 0x3F800000 = 1 := by norm_num [gridValue]

/-- The values up to the magnitude of `1.0` are those in `[-1, 1]`. -/
theorem pfInUnit_of_magBits_le {x : F32} (h : magBits x ≤ 0x3F800000) : pfInUnit x := by
  have hgrid : gridValue (magBits x) ≤ 1 := gridValue_one ▸ gridValue_strictMono.monotone h
  have hnonneg := gridValue_nonneg (magBits x)
  refine ⟨(isFinite_iff x).2 (h.trans_lt (by decide)), ?_, ?_⟩ <;> rw [value_eq] <;> split <;> linarith

/-- A power factor in range that is not a NaN is a finite number in `[-1, 1]` (R155, R199). -/
theorem pfInUnit_of_pfInRange {x : F32} (hn : isNaN x = false) (h : pfInRange x) : pfInUnit x := by
  rcases h with hx | ⟨hlo, hhi⟩
  · rw [hn] at hx; cases hx
  have hone : isNaN 0x3F800000#32 = false ∧ orderKey 0x3F800000#32 = 0x3F800000 := by decide
  have hnegOne : isNaN 0xBF800000#32 = false ∧ orderKey 0xBF800000#32 = -0x3F800000 := by decide
  simp only [flt, hn, hnegOne, Bool.not_false, Bool.true_and, decide_eq_false_iff_not] at hlo
  simp only [fgt, hn, hone, Bool.not_false, Bool.true_and, decide_eq_false_iff_not] at hhi
  rw [orderKey_eq] at hlo hhi
  apply pfInUnit_of_magBits_le
  by_cases hneg : signBit x = true
  · rw [if_pos hneg] at hlo; omega
  · rw [if_neg hneg] at hhi; omega

/-! ### The state after reset meets each invariant -/

theorem paramsLegal_reportCycles_ne_zero {p : Params} (h : paramsLegal p = true) : p.reportCycles ≠ 0#32 := by
  simp only [paramsLegal, Bool.and_eq_true, decide_eq_true_eq] at h
  obtain ⟨⟨⟨⟨⟨-, hr⟩, -⟩, -⟩, -⟩, -⟩ := h
  exact hr

/-- R6: `PF_DEFAULT` is a number in `[-1, 1]`. -/
theorem paramsLegal_pfDefault {p : Params} (h : paramsLegal p = true) :
    isNaN p.pfDefault = false ∧ pfInRange p.pfDefault := by
  simp only [paramsLegal, Bool.and_eq_true, Bool.not_eq_true'] at h
  obtain ⟨⟨⟨-, hn⟩, hlo⟩, hhi⟩ := h
  exact ⟨hn, .inr ⟨hlo, hhi⟩⟩

theorem paramsLegal_reference : paramsLegal Params.reference = true := by decide +kernel

theorem shape_resetOf {p : Params} (h : paramsLegal p = true) : Shape (State.resetOf p) where
  legal := h
  vcal := List.length_replicate
  ical := List.length_replicate
  phaseCal := rfl
  energy := List.length_replicate
  pfHold := List.length_replicate
  reportCycles := rfl
  mainsFrequency := rfl
  framesSinceReport := Nat.pos_of_ne_zero fun h0 => paramsLegal_reportCycles_ne_zero h (BitVec.eq_of_toNat_eq h0)
  asmFill := Nat.add_pos_left (paramsLegal_v_pos h) _
  abuf := List.length_replicate
  abufCodes := fun c hc => by
    obtain rfl := List.eq_of_mem_replicate hc
    exact decide_eq_true (Nat.two_pow_pos _)
  fslot := nofun
  rslot := nofun
  burst := nofun

/-- After reset every held power factor is `PF_DEFAULT`, and no report waits (R47). -/
theorem powerFactorsAll_resetOf {Q : F32 → Prop} {p : Params} (h : Q p.pfDefault) :
    PowerFactorsAll Q (State.resetOf p) :=
  ⟨fun _ hx => List.eq_of_mem_replicate hx ▸ h, nofun⟩

theorem idleLanes_resetOf (p : Params) : IdleLanes (State.resetOf p) := by
  intro c _ hc
  have hc' : c < p.ct := hc
  simp [lane, State.resetOf, hc']

theorem dropsIndicated_resetOf (p : Params) : DropsIndicated (State.resetOf p) := by
  simp [DropsIndicated, State.resetOf]

/-! ### The obligations -/

/-- Settles O48: each register of `State.resetOf` by its definition. -/
theorem resetEstablishesRegisters : Obligations.ResetEstablishesRegisters := by
  intro p
  exact ⟨⟨rfl, rfl, rfl, rfl, rfl⟩, ⟨rfl, rfl, rfl, rfl, rfl⟩, ⟨rfl, rfl, rfl, rfl⟩, ⟨rfl, rfl, rfl, rfl, rfl⟩⟩

/-- Settles O49. -/
theorem resetMeetsInvariants : Obligations.ResetMeetsInvariants := by
  refine ⟨rfl, paramsLegal_reference, fun p hp => ?_⟩
  obtain ⟨hnan, hrange⟩ := paramsLegal_pfDefault hp
  have hunit := pfInUnit_of_pfInRange hnan hrange
  have hheld : PowerFactorsAll pfInRange (State.resetOf p) := powerFactorsAll_resetOf hrange
  exact ⟨shape_resetOf hp, hheld.1, hheld, powerFactorsAll_resetOf hunit, idleLanes_resetOf p,
    dropsIndicated_resetOf p⟩

end Sys2Proof.Machine
end

section
/-! PROOFS. O24, O25: how a frame's samples are addressed, base plus stride (spec/20_memory.md R62, R63). -/

namespace Sys2Proof.Machine

/-! ### Positions and counts -/

@[simp] theorem position_zero (p : Params) (pos : Nat) : position p pos 0 = pos := by simp [position]

/-- At the same scan, the channel with the smaller base position stands earlier in the frame. -/
theorem position_lt_position {p : Params} {pos pos' : Nat} (h : pos < pos') (k : Nat) :
    position p pos k < position p pos' k :=
  Nat.add_lt_add_right h _

theorem count_of_le {p : Params} {pos len : Nat} (h : len ≤ pos) : count p pos len = 0 := if_pos h

theorem count_of_lt {p : Params} {pos len : Nat} (h : pos < len) :
    count p pos len = (len - 1 - pos) / p.vctTotal + 1 := if_neg (Nat.not_le.2 h)

/-- R63: the scans below `count` are those whose sample of the channel lies in the frame. -/
theorem lt_count_iff {p : Params} (hp : 0 < p.vctTotal) (pos len k : Nat) :
    k < count p pos len ↔ position p pos k < len := by
  rcases Nat.lt_or_ge pos len with hpos | hpos
  · calc k < count p pos len
        ↔ k ≤ (len - 1 - pos) / p.vctTotal := by rw [count_of_lt hpos, Nat.lt_succ_iff]
      _ ↔ k * p.vctTotal ≤ len - 1 - pos := Nat.le_div_iff_mul_le hp
      _ ↔ position p pos k < len := by unfold position; omega
  · have hout : len ≤ position p pos k := hpos.trans (Nat.le_add_right _ _)
    simp [count_of_le hpos, hout]

/-- R6: the reference channel is a voltage channel. -/
theorem paramsLegal_ref_lt_v {p : Params} (h : paramsLegal p = true) : p.ref < p.v := by
  simp only [paramsLegal, Bool.and_eq_true, decide_eq_true_eq] at h
  obtain ⟨⟨⟨⟨⟨⟨⟨-, href⟩, -⟩, -⟩, -⟩, -⟩, -⟩, -⟩ := h
  exact href

/-! ### The obligations -/

/-- Settles O24. -/
theorem countIsNumberOfSamples : Obligations.CountIsNumberOfSamples :=
  fun _ pos len k hp => lt_count_iff hp pos len k

/-- Settles O25: scan 0 holds a sample of every channel, and a pairing read stands before the current sample it
belongs to, because `REF < V`. -/
theorem frameReadsStayInRange : Obligations.FrameReadsStayInRange := by
  intro p len hlegal hlen
  have href := paramsLegal_ref_lt_v hlegal
  have hstride : 0 < p.vctTotal := Nat.add_pos_left (paramsLegal_v_pos hlegal) _
  refine ⟨fun pos hpos => ?_, fun c _ k hk => ?_⟩
  · refine (lt_count_iff hstride pos len 0).2 ?_
    rw [position_zero]
    exact hpos.trans_le hlen
  · have hcurrent : position p (p.v + c) k < len := (lt_count_iff hstride _ _ _).1 hk
    exact ⟨hcurrent, (position_lt_position (Nat.lt_add_right c href) k).trans hcurrent⟩

end Sys2Proof.Machine
end

section
/-! PROOFS. O1, O2, O3, O4: the decoder and the encoder are inverse to each other, and which words the decoder rejects,
outside a burst and inside one (spec/30_encoding.md R90 to R98). -/

namespace Sys2Proof.Machine

/-! ### The decoder reads exactly the words of well-formed instructions -/

/-- A word is packed from its four fields, and from no others (R90). -/
theorem packWord_eq_iff {op ch : BitVec 8} {aux : BitVec 16} {data : BitVec 32} {w : CommandWord} :
    packWord op ch aux data = w ↔ fieldOp w = op ∧ fieldCh w = ch ∧ fieldAux w = aux ∧ fieldData w = data where
  mp h := by simp [← h]
  mpr h := by
    obtain ⟨rfl, rfl, rfl, rfl⟩ := h
    exact packWord_fields w

theorem decode_encode {p : Params} {i : Instr} (h : i.wellFormed p = true) : decode p (encode i) = .ok i := by
  cases i with
  | push _ _ | frame _ _ | fdat _ => simpa [decode, encode, opcode, checked_eq_ok, Instr.wellFormed] using h
  | setv _ _ | seti _ _ => simp [decode, encode, opcode, checked_eq_ok]
  | nop | rste | gete | popr | ovrn | diag => simp [decode, encode, opcode, decodeN_eq_ok]

/-- No bit of a word that decodes is dropped: its fields are the opcode, the operands and 0 where the format reserves
them (R95). -/
theorem encode_of_decode {p : Params} {w : CommandWord} {i : Instr} (h : decode p w = .ok i) : encode i = w := by
  unfold decode at h
  split at h <;> simp only [decodeN_eq_ok, checked_eq_ok, Bool.and_eq_true, beq_iff_eq, reduceCtorEq] at h
  case h_2 hop | h_3 hop =>
    obtain ⟨hch, -, rfl⟩ := h
    exact packWord_eq_iff.2 ⟨BitVec.eq_of_toNat_eq hop, hch, rfl, rfl⟩
  case h_4 hop =>
    obtain ⟨⟨hch, hdata⟩, -, rfl⟩ := h
    exact packWord_eq_iff.2 ⟨BitVec.eq_of_toNat_eq hop, hch, rfl, hdata⟩
  case h_5 hop | h_6 hop =>
    obtain ⟨haux, -, rfl⟩ := h
    exact packWord_eq_iff.2 ⟨BitVec.eq_of_toNat_eq hop, rfl, haux, rfl⟩
  case h_1 hop | h_7 hop | h_8 hop | h_9 hop | h_10 hop | h_11 hop =>
    obtain ⟨hz, rfl⟩ := h
    exact packWord_eq_iff.2 ⟨BitVec.eq_of_toNat_eq hop, hz⟩

theorem decode_eq_ok_iff {p : Params} {w : CommandWord} {i : Instr} :
    decode p w = .ok i ↔ i.wellFormed p = true ∧ encode i = w where
  mp h := ⟨wellFormed_of_decode h, encode_of_decode h⟩
  mpr h := h.2 ▸ decode_encode h.1

/-! ### Illegal words -/

/-- A check fails for a reserved field that is not 0 or for an operand out of range. -/
theorem checked_eq_error {r c : Bool} {e e' : DecodeError} {i : Instr} (h : checked r c e i = .error e') :
    r = false ∨ c = false := by
  cases r <;> cases c <;> simp_all [checked]

theorem decodeN_eq_error {w : CommandWord} {e : DecodeError} {i : Instr} (h : decodeN w i = .error e) :
    ¬(fieldCh w = 0 ∧ fieldAux w = 0 ∧ fieldData w = 0) := by
  have hz := checked_eq_error h
  simpa [and_assoc] using hz

/-- The decoder rejects only illegal words (R96 a, c, d, e). -/
theorem illegalWord_of_decode_error {p : Params} {w : CommandWord} {e : DecodeError} (h : decode p w = .error e) :
    illegalWord p w := by
  unfold decode at h
  unfold illegalWord
  split at h
  case h_1 hop | h_7 hop | h_8 hop | h_9 hop | h_10 hop | h_11 hop =>
    have hr : reservedNonZero w := .inl ⟨by omega, decodeN_eq_error h⟩
    exact .inr (.inr (.inl hr))
  case h_2 hop =>
    rcases checked_eq_error h with hch | hcode
    · have hr : reservedNonZero w := .inr (.inl ⟨.inl hop, by simpa using hch⟩)
      exact .inr (.inr (.inl hr))
    · have hcode : 2 ^ p.adcBits ≤ (fieldAux w).toNat := by simpa [codeInRange] using hcode
      exact .inr (.inr (.inr (.inl ⟨BitVec.eq_of_toNat_eq hop, hcode⟩)))
  case h_3 hop =>
    rcases checked_eq_error h with hch | hlen
    · have hr : reservedNonZero w := .inr (.inl ⟨.inr hop, by simpa using hch⟩)
      exact .inr (.inr (.inl hr))
    · have hlen : p.frameMax < (fieldAux w).toNat := by simpa [lenInRange] using hlen
      exact .inr (.inr (.inr (.inr ⟨BitVec.eq_of_toNat_eq hop, hlen⟩)))
  case h_4 hop => exact .inr (.inl (BitVec.eq_of_toNat_eq hop))
  case h_5 hop | h_6 hop =>
    have haux : fieldAux w ≠ 0 := by simpa using checked_eq_error h
    have hr : reservedNonZero w := .inr (.inr (.inr ⟨by omega, haux⟩))
    exact .inr (.inr (.inl hr))
  case h_12 => exact .inl (by grind)

/-- Of the words of well-formed instructions only those of `FDAT` are illegal outside a burst (R96 b). -/
theorem illegalWord_encode_iff {p : Params} {i : Instr} (h : i.wellFormed p = true) :
    illegalWord p (encode i) ↔ ∃ code, i = .fdat code := by
  cases i with
  | fdat code => simp [illegalWord, encode, opcode]
  | push code ts => simpa [illegalWord, reservedNonZero, encode, opcode, Instr.wellFormed, codeInRange] using h
  | frame len ts => simpa [illegalWord, reservedNonZero, encode, opcode, Instr.wellFormed, lenInRange] using h
  | setv _ _ | seti _ _ | nop | rste | gete | popr | ovrn | diag =>
    simp [illegalWord, reservedNonZero, encode, opcode]

/-! ### Data words of a burst -/

/-- The well-formed `FDAT` words are those that decode to `FDAT` (R94). -/
theorem wellFormedData_iff {p : Params} {w : CommandWord} :
    wellFormedData p w ↔ decode p w = .ok (.fdat (fieldAux w)) where
  mp := fun ⟨hop, hch, hdata, hcode⟩ =>
    decode_eq_ok_iff.2 ⟨decide_eq_true hcode, packWord_eq_iff.2 ⟨hop, hch, rfl, hdata⟩⟩
  mpr h := by
    obtain ⟨hcode, hw⟩ := decode_eq_ok_iff.1 h
    obtain ⟨hop, hch, -, hdata⟩ := packWord_eq_iff.1 hw
    exact ⟨hop, hch, hdata, of_decide_eq_true hcode⟩

theorem decodeIn_true_of_wellFormedData {p : Params} {w : CommandWord} (h : wellFormedData p w) :
    decodeIn true p w = .ok (.fdat (fieldAux w)) :=
  decodeIn_true_eq_ok.2 ⟨_, rfl, wellFormedData_iff.1 h⟩

theorem decodeIn_true_of_not_wellFormedData {p : Params} {w : CommandWord} (h : ¬wellFormedData p w) :
    decodeIn true p w = .error .malformedDataWord := by
  have hne : ∀ code, decode p w ≠ .ok (.fdat code) := by
    intro code hd
    obtain ⟨-, hw⟩ := decode_eq_ok_iff.1 hd
    have haux : fieldAux w = code := by simp [← hw, encode]
    exact h (wellFormedData_iff.2 (haux ▸ hd))
  unfold decodeIn
  split <;> simp_all

/-! ### The obligations -/

/-- Settles O1, by the fields of a packed word. -/
theorem decodeEncodeRoundTrip : Obligations.DecodeEncodeRoundTrip :=
  fun _ _ h => decode_encode h

/-- Settles O2: a word is packed from its fields, and what the decoder rejects is illegal. -/
theorem encodeDecodeRoundTrip : Obligations.EncodeDecodeRoundTrip := by
  refine fun p w => ⟨fun i h => decode_eq_ok_iff.1 h, fun hl => ?_⟩
  cases hd : decode p w with
  | ok i => exact ⟨i, rfl⟩
  | error e => exact absurd (illegalWord_of_decode_error hd) hl

/-- Settles O3, by evaluating the decoder on the fifteen words. -/
theorem wordsOfTheSpecDecode : Obligations.WordsOfTheSpecDecode := by
  unfold Obligations.WordsOfTheSpecDecode
  decide

/-- Settles O4: inside a burst only the words that decode to `FDAT` count. -/
theorem dataWordsInsideBurst : Obligations.DataWordsInsideBurst :=
  fun _ _ => ⟨decodeIn_true_of_wellFormedData, decodeIn_true_of_not_wellFormedData⟩

end Sys2Proof.Machine
end

section
/-! PROOFS. O5, O37: the fields of the status word (spec/30_encoding.md R100 to R102) and the places of the report's
fields among its words (R104). -/

namespace Sys2Proof.Machine

/-! ### The status word -/

theorem statusWord_code (r : Response) : r.statusWord.extractLsb' 0 4 = r.code.bits := by
  unfold Response.statusWord
  ext i hi
  have h1 : i < 32 := by omega
  have h2 : i < 16 := by omega
  simp [h1, h2, hi]

theorem statusWord_flags (r : Response) : r.statusWord.extractLsb' 4 4 = r.flags.bits := by
  unfold Response.statusWord
  ext i hi
  have h1 : 4 + i < 32 := by omega
  have h2 : 4 + i < 16 := by omega
  simp [h1, h2, hi]

theorem statusWord_reserved (r : Response) : r.statusWord.extractLsb' 8 8 = 0#8 := by
  unfold Response.statusWord
  ext i hi
  have h1 : 8 + i < 16 := by omega
  have h2 : r.flags.bits.getLsbD (8 + i - 4) = false := BitVec.getLsbD_of_ge _ _ (by omega)
  have h3 : r.code.bits.getLsbD (8 + i) = false := BitVec.getLsbD_of_ge _ _ (by omega)
  simp [h1, h2, h3]

theorem statusWord_length (r : Response) : r.statusWord.extractLsb' 16 16 = BitVec.ofNat 16 r.data.length := by
  unfold Response.statusWord
  ext i hi
  have h2 : r.flags.bits.getLsbD (16 + i - 4) = false := BitVec.getLsbD_of_ge _ _ (by omega)
  have h3 : r.code.bits.getLsbD (16 + i) = false := BitVec.getLsbD_of_ge _ _ (by omega)
  have h1 : 16 + i < 32 := by omega
  simp [h1, h2, h3, hi]

/-- A bit of the status word's flags field is a bit of the flags. -/
theorem statusWord_getLsbD_flags (r : Response) {i : Nat} (hi : i < 4) :
    r.statusWord.getLsbD (4 + i) = r.flags.bits.getLsbD i := by
  simp [← statusWord_flags, hi]

/-- R101: `RPT`, `CNM`, `FDONE`, `DROP` are bits 0 to 3 of the flags. -/
theorem flags_bits_getLsbD (f : RespFlags) :
    f.bits.getLsbD 0 = f.rpt ∧ f.bits.getLsbD 1 = f.cnm ∧ f.bits.getLsbD 2 = f.fdone ∧
      f.bits.getLsbD 3 = f.drop := by
  simp [RespFlags.bits]

/-- Settles O5, field by field; the numbers of R102 are read off. -/
theorem statusWordLayout : Obligations.StatusWordLayout := by
  refine ⟨by decide, fun r => ?_⟩
  obtain ⟨hrpt, hcnm, hfdone, hdrop⟩ := flags_bits_getLsbD r.flags
  have hbit : ∀ i < 4, r.statusWord.getLsbD (4 + i) = r.flags.bits.getLsbD i :=
    fun _ hi => statusWord_getLsbD_flags r hi
  exact ⟨statusWord_code r,
    ⟨(hbit 0 (by omega)).trans hrpt, (hbit 1 (by omega)).trans hcnm, (hbit 2 (by omega)).trans hfdone,
      (hbit 3 (by omega)).trans hdrop⟩,
    statusWord_reserved r, statusWord_length r⟩

/-! ### The report's words -/

/-- An element of a part of a list is found behind the parts before it. -/
theorem getElem?_part {α : Type} {l : List α} {n i : Nat} (pre xs post : List α) (hl : l = pre ++ xs ++ post)
    (hn : pre.length = n) (hi : i < xs.length) : l[n + i]? = xs[i]? := by
  subst hl hn
  rw [List.append_assoc, List.getElem?_append_right (by omega), List.getElem?_append_left (by omega),
    Nat.add_sub_cancel_left]

theorem report_words_length {p : Params} {r : Report} (h : ReportShape p r) :
    r.words.length = p.v + 5 * p.ct + 1 := by
  simp only [Report.words, List.length_append, List.length_singleton, h.voltageRms, h.currentRms, h.realPower,
    h.apparentPower, h.powerFactor, h.energyWh]
  omega

theorem words_voltageRms {p : Params} {r : Report} (h : ReportShape p r) {v : Nat} (hv : v < p.v) :
    r.words[v]? = r.voltageRms[v]? := by
  have hpart := getElem?_part (l := r.words) (n := 0) (i := v) [] r.voltageRms
    (r.currentRms ++ r.realPower ++ r.apparentPower ++ r.powerFactor ++ [r.frequency] ++ r.energyWh)
    (by simp [Report.words]) rfl (by rwa [h.voltageRms])
  rwa [Nat.zero_add] at hpart

theorem words_currentRms {p : Params} {r : Report} (h : ReportShape p r) {c : Nat} (hc : c < p.ct) :
    r.words[p.v + c]? = r.currentRms[c]? :=
  getElem?_part r.voltageRms r.currentRms
    (r.realPower ++ r.apparentPower ++ r.powerFactor ++ [r.frequency] ++ r.energyWh)
    (by simp [Report.words]) h.voltageRms (by rwa [h.currentRms])

theorem words_realPower {p : Params} {r : Report} (h : ReportShape p r) {c : Nat} (hc : c < p.ct) :
    r.words[p.v + p.ct + c]? = r.realPower[c]? :=
  getElem?_part (r.voltageRms ++ r.currentRms) r.realPower
    (r.apparentPower ++ r.powerFactor ++ [r.frequency] ++ r.energyWh)
    (by simp [Report.words]) (by simp [h.voltageRms, h.currentRms]) (by rwa [h.realPower])

theorem words_apparentPower {p : Params} {r : Report} (h : ReportShape p r) {c : Nat} (hc : c < p.ct) :
    r.words[p.v + 2 * p.ct + c]? = r.apparentPower[c]? :=
  getElem?_part (r.voltageRms ++ r.currentRms ++ r.realPower) r.apparentPower
    (r.powerFactor ++ [r.frequency] ++ r.energyWh) (by simp [Report.words])
    (by simp only [List.length_append, h.voltageRms, h.currentRms, h.realPower]; omega) (by rwa [h.apparentPower])

theorem words_powerFactor {p : Params} {r : Report} (h : ReportShape p r) {c : Nat} (hc : c < p.ct) :
    r.words[p.v + 3 * p.ct + c]? = r.powerFactor[c]? :=
  getElem?_part (r.voltageRms ++ r.currentRms ++ r.realPower ++ r.apparentPower) r.powerFactor
    ([r.frequency] ++ r.energyWh) (by simp [Report.words])
    (by simp only [List.length_append, h.voltageRms, h.currentRms, h.realPower, h.apparentPower]; omega)
    (by rwa [h.powerFactor])

/-- The words before the frequency: the voltages, and four arrays of the current channels. -/
theorem words_before_frequency_length {p : Params} {r : Report} (h : ReportShape p r) :
    (r.voltageRms ++ r.currentRms ++ r.realPower ++ r.apparentPower ++ r.powerFactor).length = p.v + 4 * p.ct := by
  simp only [List.length_append, h.voltageRms, h.currentRms, h.realPower, h.apparentPower, h.powerFactor]
  omega

theorem words_frequency {p : Params} {r : Report} (h : ReportShape p r) :
    r.words[p.v + 4 * p.ct]? = some r.frequency :=
  getElem?_part (i := 0) _ [r.frequency] r.energyWh rfl (words_before_frequency_length h) Nat.one_pos

theorem words_energyWh {p : Params} {r : Report} (h : ReportShape p r) {c : Nat} (hc : c < p.ct) :
    r.words[p.v + 4 * p.ct + 1 + c]? = r.energyWh[c]? :=
  getElem?_part _ r.energyWh [] (List.append_nil _).symm
    (by rw [List.length_append, words_before_frequency_length h, List.length_singleton]) (by rwa [h.energyWh])

/-- Settles O37: each array stands behind those before it in R104's order. -/
theorem reportWordOffsets : Obligations.ReportWordOffsets :=
  fun _ _ h => ⟨report_words_length h, fun _ hv => words_voltageRms h hv,
    fun _ hc => ⟨words_currentRms h hc, words_realPower h hc, words_apparentPower h hc, words_powerFactor h hc,
      words_energyWh h hc⟩, words_frequency h⟩

end Sys2Proof.Machine
end

section
/-! PROOFS. O6, O7, O15 to O19: one step on the command port's turn, and the words of a `FRAME` command taken one a step
(spec/30_encoding.md R90, R94, R96; spec/45_process_frame.md R230). -/

namespace Sys2Proof.Machine

/-! ### A turn of the command port -/

theorem step_command {s : State} (hl : paramsLegal s.params = true) (ht : nextTurn s = .command) :
    step s = commandTurn (useTurn s) := by
  simp only [step, hl, ht, if_true]

theorem consumeWord_useTurn {s : State} {w : CommandWord} {rest : List CommandWord} (hp : s.port = w :: rest) :
    consumeWord (useTurn s) = { s with port := rest, turns := s.turns.tail } := by
  simp only [consumeWord, useTurn, hp, List.tail_cons]

theorem step_of_decode_ok {s : State} {w : CommandWord} {rest : List CommandWord} {i : Instr}
    (hl : paramsLegal s.params = true) (ht : nextTurn s = .command) (hp : s.port = w :: rest)
    (hd : decodeIn s.burst.isSome s.params w = .ok i) :
    step s = exec i { s with port := rest, turns := s.turns.tail } := by
  have hw : decodeWord (useTurn s) w = .ok i := hd
  simp only [step_command hl ht, commandTurn, portWord, useTurn_port, hp, List.head?_cons, hw, consumeWord_useTurn hp]

theorem step_of_decode_error {s : State} {w : CommandWord} {rest : List CommandWord} {e : DecodeError}
    (hl : paramsLegal s.params = true) (ht : nextTurn s = .command) (hp : s.port = w :: rest)
    (hd : decodeIn s.burst.isSome s.params w = .error e) :
    step s = .next (rejectWord { s with port := rest, turns := s.turns.tail }) := by
  have hw : decodeWord (useTurn s) w = .error e := hd
  simp only [step_command hl ht, commandTurn, portWord, useTurn_port, hp, List.head?_cons, hw, consumeWord_useTurn hp]

/-- Settles O6: the rule for a turn of the command port, on a word that decodes. -/
theorem stepRunsDecodedInstruction : Obligations.StepRunsDecodedInstruction :=
  fun _ _ _ _ => step_of_decode_ok

/-! ### Words outside a burst -/

theorem execFdat_outside {s : State} (code : Code) (hb : s.burst = none) :
    exec (.fdat code) s = .next s.answerIllegal := by
  simp only [exec, execFdat, hb]

theorem rejectWord_outside {s : State} (hb : s.burst = none) : rejectWord s = s.answerIllegal := by
  simp only [rejectWord, hb]

/-- Settles O7: an illegal word is rejected by the decoder, or it is a data word, which `exec` rejects. -/
theorem illegalWordAnsweredWithoutEffect : Obligations.IllegalWordAnsweredWithoutEffect := by
  intro s w rest hl ht hp hb hill
  have hin : decodeIn s.burst.isSome s.params w = decode s.params w := by rw [hb]; exact decodeIn_false _ _
  cases hd : decode s.params w with
  | ok i =>
    obtain ⟨hi, rfl⟩ := decode_eq_ok_iff.1 hd
    obtain ⟨code, rfl⟩ := (illegalWord_encode_iff hi).1 hill
    rw [step_of_decode_ok hl ht hp (hin.trans hd)]
    exact execFdat_outside code hb
  | error e =>
    rw [step_of_decode_error hl ht hp (hin.trans hd)]
    exact congrArg _ (rejectWord_outside hb)

/-! ### The header and the data words of a burst -/

theorem exec_frame (len : BitVec 16) (ts : Timestamp) (s : State) :
    exec (.frame len ts) s = .next (openBurst s len.toNat ts) := rfl

theorem openBurst_zero (s : State) (ts : Timestamp) : openBurst s 0 ts = finishFrame s ⟨0, ts, [], false⟩ := rfl

theorem openBurst_of_ne_zero {s : State} {len : Nat} (ts : Timestamp) (h : len ≠ 0) :
    openBurst s len ts = { s with burst := some ⟨len, ts, [], false⟩, response := none } := by
  simp only [openBurst, if_neg h]

theorem execFdat_inside {s : State} {b : Burst} (code : Code) (hb : s.burst = some b) :
    exec (.fdat code) s = .next (takeDataWord s b (some code)) := by
  simp only [exec, execFdat, hb]

theorem takeDataWord_of_more {s : State} {b : Burst} (d : Option Code) (h : 1 < b.remaining) :
    takeDataWord s b d = { s with
      burst := some ⟨b.remaining - 1, b.ts, b.codes ++ d.toList, b.malformed || d.isNone⟩, response := none } := by
  simp only [takeDataWord, if_neg (show b.remaining - 1 ≠ 0 by omega)]

theorem takeDataWord_last {s : State} {b : Burst} (d : Option Code) (h : b.remaining = 1) :
    takeDataWord s b d =
      finishFrame { s with burst := none } ⟨0, b.ts, b.codes ++ d.toList, b.malformed || d.isNone⟩ := by
  simp only [takeDataWord, h, Nat.sub_self, if_true]

theorem finishFrame_malformed {s : State} {b : Burst} (h : b.malformed = true) : finishFrame s b = s.answerIllegal := by
  simp only [finishFrame, h, if_true]

/-- What a finished `FRAME` command leaves: the outcome of PROCESS_FRAME, answered (R230). -/
abbrev FrameOutcome.answered (o : FrameOutcome) : State := o.state.answer o.code o.flags []

theorem finishFrame_wellFormed {s : State} {b : Burst} (h : b.malformed = false) :
    finishFrame s b = (processFrame (numericsOf s.params) s b.codes b.ts).answered := by
  simp [finishFrame, h]

/-- Settles O15, by whether the header announces data words. -/
theorem frameHeaderOpensBurst : Obligations.FrameHeaderOpensBurst := by
  refine fun len ts s => ⟨fun hlen => ?_, fun hlen hv => ?_⟩
  · have hne : len.toNat ≠ 0 := fun h0 => hlen (BitVec.eq_of_toNat_eq h0)
    rw [exec_frame, openBurst_of_ne_zero ts hne]
  · subst hlen
    have hshort : ([] : List Code).length < s.params.vctTotal := hv
    have hlen : (0#16).toNat = 0 := rfl
    rw [exec_frame, hlen, openBurst_zero, finishFrame_wellFormed rfl, processFrame_short hshort]
    rfl

/-- Settles O16: a word is still to come, so the burst stays open. -/
theorem dataWordExtendsBurst : Obligations.DataWordExtendsBurst := by
  refine fun code s => ⟨fun b hb hmore => ?_, execFdat_outside code⟩
  rw [execFdat_inside code hb, takeDataWord_of_more _ hmore]
  simp

/-- Settles O17: the burst closes, and its command is finished. -/
theorem lastDataWordProcessesFrame : Obligations.LastDataWordProcessesFrame := by
  intro code s b hb hlast
  rw [execFdat_inside code hb, takeDataWord_last _ hlast]
  refine ⟨fun hm => ?_, fun hm => ?_⟩
  · rw [finishFrame_wellFormed (by simpa using hm)]
    rfl
  · rw [finishFrame_malformed (by simp [hm])]
    rfl

/-! ### The schedules on which a command's words run one after another -/

/-- The schedule `turns` gives the command port `n` turns and then goes on with `later`; or it is empty, and so it stays
(log entry 6). -/
def CommandSchedule (n : Nat) (turns later : List Turn) : Prop :=
  turns = List.replicate n .command ++ later ∨ (turns = [] ∧ later = [])

theorem CommandSchedule.tail {n : Nat} {turns later : List Turn} (h : CommandSchedule (n + 1) turns later) :
    CommandSchedule n turns.tail later := by
  rcases h with rfl | ⟨rfl, hlater⟩
  · exact .inl rfl
  · exact .inr ⟨rfl, hlater⟩

theorem CommandSchedule.used {turns later : List Turn} (h : CommandSchedule 0 turns later) : turns = later := by
  rcases h with h | ⟨rfl, rfl⟩
  · exact h
  · rfl

/-- While the schedule lasts it is the port's turn, unless an `OUTPUT` word waits (R292). -/
theorem CommandSchedule.nextTurn {n : Nat} {s : State} {later : List Turn} {w : CommandWord} {rest : List CommandWord}
    (h : CommandSchedule (n + 1) s.turns later) (hp : s.port = w :: rest) (ho : outputWaits s = false) :
    nextTurn s = .command := by
  rcases h with h | ⟨h, -⟩
  · simp [Machine.nextTurn, h, List.replicate_succ]
  · simp [Machine.nextTurn, h, hp, ho]

/-- Inside a burst no word is an `OUTPUT` step: it is a data word, whatever its `op` field says (R94). -/
theorem outputWaits_inside {s : State} {b : Burst} (hb : s.burst = some b) : outputWaits s = false := by
  unfold outputWaits
  cases s.port <;> simp [hb]

theorem outputWaits_of_op_ne {s : State} {w : CommandWord} {rest : List CommandWord} (hp : s.port = w :: rest)
    (hop : fieldOp w ≠ 0x08) : outputWaits s = false := by
  simp only [outputWaits, hp, beq_eq_false_iff_ne.2 hop, Bool.and_false]

/-! ### The data words of a burst, one a step -/

/-- What a word taken inside a burst gives: the code of a well-formed `FDAT` word, or nothing (R94). -/
def dataCode (p : Params) (w : CommandWord) : Option Code :=
  match decodeIn true p w with
  | .ok (.fdat code) => some code
  | _ => none

theorem dataCode_of_wellFormedData {p : Params} {w : CommandWord} (h : wellFormedData p w) :
    dataCode p w = some (fieldAux w) := by
  simp only [dataCode, decodeIn_true_of_wellFormedData h]

theorem dataCode_of_not_wellFormedData {p : Params} {w : CommandWord} (h : ¬wellFormedData p w) :
    dataCode p w = none := by
  simp only [dataCode, decodeIn_true_of_not_wellFormedData h]

theorem dataCode_encode_fdat {p : Params} {code : Code} (h : codeInRange p code = true) :
    dataCode p (encode (.fdat code)) = some code := by
  have hd : decode p (encode (.fdat code)) = .ok (.fdat code) := decode_encode h
  simp only [dataCode, decodeIn_true_eq_ok.2 ⟨code, rfl, hd⟩]

theorem step_dataWord {s : State} {w : CommandWord} {rest : List CommandWord} {b : Burst}
    (hl : paramsLegal s.params = true) (ht : nextTurn s = .command) (hp : s.port = w :: rest) (hb : s.burst = some b) :
    step s = .next (takeDataWord { s with port := rest, turns := s.turns.tail } b (dataCode s.params w)) := by
  have hin : s.burst.isSome = true := by rw [hb]; rfl
  by_cases hw : wellFormedData s.params w
  · rw [step_of_decode_ok hl ht hp (hin ▸ decodeIn_true_of_wellFormedData hw), dataCode_of_wellFormedData hw]
    exact execFdat_inside _ hb
  · rw [step_of_decode_error hl ht hp (hin ▸ decodeIn_true_of_not_wellFormedData hw),
      dataCode_of_not_wellFormedData hw]
    simp only [rejectWord, hb]

/-- `s` with the burst `b` open, `words` at the port and the schedule `turns`; the command has not answered yet. -/
abbrev State.inBurst (s : State) (words : List CommandWord) (turns : List Turn) (b : Burst) : State :=
  { s with port := words, turns := turns, burst := some b, response := none }

/-- The burst `b` after the words `words`, none of them the last. -/
def Burst.afterWords (p : Params) (b : Burst) (words : List CommandWord) : Burst :=
  ⟨b.remaining - words.length, b.ts, b.codes ++ words.filterMap (dataCode p),
    b.malformed || words.any fun w => (dataCode p w).isNone⟩

theorem Burst.afterWords_singleton (p : Params) (b : Burst) (w : CommandWord) :
    b.afterWords p [w] =
      ⟨b.remaining - 1, b.ts, b.codes ++ (dataCode p w).toList, b.malformed || (dataCode p w).isNone⟩ := by
  cases h : dataCode p w <;> simp [Burst.afterWords, h]

theorem Burst.afterWords_cons (p : Params) (b : Burst) (w : CommandWord) (ws : List CommandWord) :
    b.afterWords p (w :: ws) = (b.afterWords p [w]).afterWords p ws := by
  cases h : dataCode p w <;> simp [Burst.afterWords, h, Nat.sub_sub, Nat.add_comm]

theorem step_inBurst {s : State} {w : CommandWord} {rest : List CommandWord} {turns later : List Turn} {n : Nat}
    {b : Burst} (hl : paramsLegal s.params = true) (ht : CommandSchedule (n + 1) turns later) :
    step (s.inBurst (w :: rest) turns b) =
      .next (takeDataWord (s.inBurst rest turns.tail b) b (dataCode s.params w)) :=
  step_dataWord (s := s.inBurst (w :: rest) turns b) hl (ht.nextTurn rfl (outputWaits_inside rfl)) rfl rfl

/-- The words of a burst, taken one a step: the last one finishes the command (R94). -/
theorem run_dataWords {s : State} {words rest : List CommandWord} {turns later : List Turn} {b : Burst}
    (hl : paramsLegal s.params = true) (ht : CommandSchedule words.length turns later) (hne : words ≠ [])
    (hb : b.remaining = words.length) :
    Host.Core.run core words.length (s.inBurst (words ++ rest) turns b) =
      .next (finishFrame { s with port := rest, turns := later, burst := none, response := none }
        (b.afterWords s.params words)) := by
  induction words generalizing turns b with
  | nil => exact absurd rfl hne
  | cons w ws ih =>
    rw [List.length_cons, List.cons_append, run_succ _ (step_inBurst hl ht)]
    cases ws with
    | nil =>
      rw [takeDataWord_last _ hb, ← ht.tail.used, Burst.afterWords_singleton, hb]
      rfl
    | cons w' ws =>
      have hb1 : (b.afterWords s.params [w]).remaining = (w' :: ws).length := by simp [Burst.afterWords, hb]
      rw [takeDataWord_of_more _ (by simp [hb]), ← Burst.afterWords_singleton,
        Burst.afterWords_cons s.params b w (w' :: ws)]
      exact ih ht.tail (List.cons_ne_nil _ _) hb1

/-! ### The whole command -/

/-- The answer of a finished command takes the place of whatever the response port held. -/
theorem finishFrame_response (s : State) (r : Option Response) (b : Burst) :
    finishFrame { s with response := r } b = finishFrame s b := by
  cases hm : b.malformed with
  | true => rw [finishFrame_malformed hm, finishFrame_malformed hm]; rfl
  | false =>
    rw [finishFrame_wellFormed hm, finishFrame_wellFormed hm]
    have hwith := processFrame_update (numericsOf s.params) s b.codes b.ts s.asmFill s.abuf s.fslot s.overrunCount
      s.frameDropCount s.port s.turns s.burst
    exact (congrArg FrameOutcome.answered (hwith r)).trans (congrArg FrameOutcome.answered (hwith s.response)).symm

theorem paramsLegal_frameMax_le {p : Params} (h : paramsLegal p = true) : p.frameMax ≤ 65535 := by
  simp only [paramsLegal, Bool.and_eq_true, decide_eq_true_eq] at h
  omega

/-- The header of `FRAME` and its data words, taken one a step, are one command, whatever its data words are (R94). -/
theorem run_frame {s : State} {ts : Timestamp} {words rest : List CommandWord} {later : List Turn}
    (hl : paramsLegal s.params = true) (hb : s.burst = none)
    (ht : CommandSchedule (words.length + 1) s.turns later) (hlen : words.length ≤ s.params.frameMax)
    (hp : s.port = encode (.frame (BitVec.ofNat 16 words.length) ts) :: (words ++ rest)) :
    Host.Core.run core (words.length + 1) s =
      .next (finishFrame { s with port := rest, turns := later }
        ((⟨words.length, ts, [], false⟩ : Burst).afterWords s.params words)) := by
  have hmax := paramsLegal_frameMax_le hl
  have hn : (BitVec.ofNat 16 words.length).toNat = words.length := by
    rw [BitVec.toNat_ofNat]; omega
  have hdec : decodeIn s.burst.isSome s.params (encode (.frame (BitVec.ofNat 16 words.length) ts)) =
      .ok (.frame (BitVec.ofNat 16 words.length) ts) := by
    rw [hb]
    exact (decodeIn_false _ _).trans (decode_encode (by simpa [Instr.wellFormed, lenInRange, hn] using hlen))
  have hturn := ht.nextTurn hp (outputWaits_of_op_ne hp (by simp [encode, opcode]))
  have hstep := step_of_decode_ok hl hturn hp hdec
  rw [exec_frame, hn] at hstep
  rw [run_succ _ hstep]
  by_cases hne : words = []
  · subst hne
    rw [List.length_nil, openBurst_zero, ← ht.tail.used]
    rfl
  · rw [openBurst_of_ne_zero ts (by simpa using hne)]
    have hrun := run_dataWords (s := s) (rest := rest) (b := ⟨words.length, ts, [], false⟩) hl ht.tail hne rfl
    refine hrun.trans (congrArg _ ?_)
    rw [← hb]
    exact finishFrame_response { s with port := rest, turns := later } none _

/-- The `FDAT` words of a frame give its codes, and none of them is malformed. -/
theorem afterWords_fdat {p : Params} {codes : List Code} (ts : Timestamp) (h : codesInRange p codes) :
    (⟨codes.length, ts, [], false⟩ : Burst).afterWords p (codes.map fun c => encode (.fdat c)) =
      ⟨0, ts, codes, false⟩ := by
  have hcode : ∀ c ∈ codes, dataCode p (encode (.fdat c)) = some c := fun c hc => dataCode_encode_fdat (h c hc)
  have hcodes : (codes.map fun c => encode (.fdat c)).filterMap (dataCode p) = codes := by
    rw [List.filterMap_map]
    exact (List.filterMap_congr hcode).trans List.filterMap_some
  have hany : ((codes.map fun c => encode (.fdat c)).any fun w => (dataCode p w).isNone) = false := by
    simp +contextual [hcode]
  simp [Burst.afterWords, hcodes, hany]

/-- Settles O18: the run of any `FRAME` command, whose words here are the `FDAT` words of the codes. -/
theorem frameCommandRunsProcessFrame : Obligations.FrameCommandRunsProcessFrame := by
  intro s ts codes rest later hl hb ht hlen hc hp
  have hrun := run_frame (words := codes.map fun c => encode (.fdat c)) (ts := ts) (rest := rest) (later := later) hl hb
    (by rwa [List.length_map]) (by rwa [List.length_map]) (by rwa [List.length_map])
  rw [List.length_map, afterWords_fdat ts hc, finishFrame_wellFormed rfl] at hrun
  exact hrun

/-- Settles O19: the run of any `FRAME` command, of whose words here one gives no code. -/
theorem malformedBurstIsIllegal : Obligations.MalformedBurstIsIllegal := by
  intro s ts words rest later hl hb ht hlen hbad hp
  obtain ⟨w, hw, hmal⟩ := hbad
  have hafter : ((⟨words.length, ts, [], false⟩ : Burst).afterWords s.params words).malformed = true :=
    List.any_eq_true.2 ⟨w, hw, by rw [dataCode_of_not_wellFormedData hmal]; rfl⟩
  rw [run_frame hl hb ht hlen hp, finishFrame_malformed hafter]
  rfl

end Sys2Proof.Machine
end

section
/-! PROOFS. O9 to O14 and O39: the frame sequencer (spec/40_frame_sequencer.md R120 to R127) and its pushes beside a
METER step (spec/60_exceptions.md R296). One rule per outcome of `PUSH`, from which a whole scan, and then any number of
scans from reset, are followed. -/

namespace Sys2Proof.Machine

/-! ### One command -/

/-- R120, the first branch: a place of the buffer stays free. -/
theorem exec_push_store {code : Code} {ts : Timestamp} {s : State} (h : s.asmFill + 1 < s.params.vctTotal) :
    exec (.push code ts) s =
      .next (({ s with abuf := s.abuf.set s.asmFill code, asmFill := s.asmFill + 1 } : State).answer .ok {} []) := by
  simp only [exec, execPush]
  rw [if_neg (by omega), if_pos h]

/-- R120 to R122, the second branch: the buffer, now full, is put into the frame slot. -/
theorem exec_push_complete {code : Code} {ts : Timestamp} {s : State} (h : s.asmFill + 1 = s.params.vctTotal) :
    exec (.push code ts) s =
      .next (({ putFrame { s with abuf := s.abuf.set s.asmFill code } ⟨s.abuf.set s.asmFill code, ts⟩ with
        asmFill := 0 } : State).answer .ok { fdone := true, drop := s.fslot.isSome } []) := by
  simp only [exec, execPush]
  rw [if_neg (by omega), if_neg (by omega)]

theorem exec_push_overfull {code : Code} {ts : Timestamp} {s : State} (h : s.params.vctTotal ≤ s.asmFill) :
    exec (.push code ts) s = .fault .assemblerOverflow := by
  simp only [exec, execPush, if_pos h]

theorem exec_ovrn (s : State) :
    exec .ovrn s = .next (({ s with overrunCount := satIncr s.overrunCount } : State).answer .ok {} []) := rfl

/-- Settles O9: the first branch of R120. -/
theorem pushStoresSample : Obligations.PushStoresSample :=
  fun _ _ _ => exec_push_store

/-- Settles O10: the second branch of R120, with the saturating increment written out. -/
theorem pushCompletesScan : Obligations.PushCompletesScan :=
  fun _ _ _ => exec_push_complete

/-- Settles O11: below the bound a `PUSH` stores its sample or completes the scan, and either way it answers. -/
theorem pushFaultsExactlyWhenOverfull : Obligations.PushFaultsExactlyWhenOverfull := by
  refine fun code ts s => ⟨fun hfault => ?_, exec_push_overfull⟩
  by_contra hbelow
  have hroom : s.asmFill + 1 ≤ s.params.vctTotal := Nat.lt_of_not_le hbelow
  rcases Nat.lt_or_eq_of_le hroom with hstore | hcomplete
  · rw [exec_push_store hstore] at hfault
    cases hfault
  · rw [exec_push_complete hcomplete] at hfault
    cases hfault

/-- Settles O14: the rule for `OVRN`, with the saturating increment written out. -/
theorem ovrnCountsOneEvent : Obligations.OvrnCountsOneEvent :=
  exec_ovrn

/-! ### A METER step beside a push -/

/-- METER neither reads nor writes the sequencer, nor does it read the response port (R229). -/
theorem meterTurn_update_sequencer (s : State) (buf : List Code) (fill : Nat) (r r' : Option Response) :
    { meterTurn { s with abuf := buf, asmFill := fill, response := r } with response := r' } =
      { meterTurn s with abuf := buf, asmFill := fill, response := r' } := by
  obtain hslot | ⟨e, hslot⟩ := s.fslot.eq_none_or_eq_some
  · rw [meterTurn_idle hslot, meterTurn_idle (s := { s with abuf := buf, asmFill := fill, response := r }) hslot]
  · have hframe := fun fill buf r =>
      processFrame_update (numericsOf s.params) s e.frame e.ts fill buf none s.overrunCount s.frameDropCount s.port
        s.turns s.burst r
    rw [meterTurn_enabled hslot, meterTurn_enabled (s := { s with abuf := buf, asmFill := fill, response := r }) hslot,
      hframe s.asmFill s.abuf s.response, hframe fill buf r]

/-- Settles O39: METER keeps the fill and the buffer, so the `PUSH` after it stores its sample in the same place. -/
theorem pushCommutesWithMeter : Obligations.PushCommutesWithMeter := by
  intro code ts s h
  have hmeter : (meterTurn s).asmFill + 1 < (meterTurn s).params.vctTotal := by simpa using h
  refine ⟨_, exec_push_store h, ?_⟩
  rw [exec_push_store hmeter, meterTurn_asmFill, meterTurn_abuf]
  exact congrArg _ (meterTurn_update_sequencer s _ _ _ _).symm

/-! ### Sequences of pushes -/

theorem execAll_append {is js : List Instr} {s t : State} (h : execAll is s = .next t) :
    execAll (is ++ js) s = execAll js t := by
  induction is generalizing s with
  | nil => obtain rfl := next_inj.1 h; rfl
  | cons i is ih =>
    simp only [List.cons_append, execAll] at h ⊢
    cases hi : exec i s with
    | next u => rw [hi] at h; exact ih h
    | fault r => rw [hi] at h; cases h
    | refused r => rw [hi] at h; cases h

theorem execAll_singleton (i : Instr) (s : State) : execAll [i] s = exec i s := by
  simp only [execAll]
  cases exec i s <;> rfl

theorem pushes_append (xs ys : List (Code × Timestamp)) : pushes (xs ++ ys) = pushes xs ++ pushes ys :=
  List.map_append

theorem execAll_pushes_append {xs ys : List (Code × Timestamp)} {s t : State} (h : execAll (pushes xs) s = .next t) :
    execAll (pushes (xs ++ ys)) s = execAll (pushes ys) t := by
  rw [pushes_append, execAll_append h]

theorem execAll_pushes_concat {xs : List (Code × Timestamp)} {s t : State} (x : Code × Timestamp)
    (h : execAll (pushes xs) s = .next t) :
    execAll (pushes (xs ++ [x])) s = exec (.push x.1 x.2) t :=
  (execAll_pushes_append h).trans (execAll_singleton _ t)

/-! ### One scan -/

/-- The next code of a scan, written into a buffer that already begins with the earlier ones. -/
theorem set_scanned {ys : List (Code × Timestamp)} {buf : List Code} (code : Code) (h : ys.length < buf.length) :
    (ys.map Prod.fst ++ buf.drop ys.length).set ys.length code =
      ys.map Prod.fst ++ [code] ++ buf.drop (ys.length + 1) := by
  rw [List.set_append_right _ _ (List.length_map _).le, List.length_map, Nat.sub_self, List.drop_eq_getElem_cons h,
    List.set_cons_zero, List.append_assoc, List.singleton_append]

/-- Fewer pushes than a scan has, from an empty sequencer: their codes stand in order at the front of the buffer, and
nothing else of the state changes but the response. -/
theorem execAll_pushes_partial {s : State} (hfill : s.asmFill = 0) (hbuf : s.abuf.length = s.params.vctTotal)
    (ys : List (Code × Timestamp)) (hys : ys.length < s.params.vctTotal) :
    ∃ r, execAll (pushes ys) s = .next { s with
      abuf := ys.map Prod.fst ++ s.abuf.drop ys.length, asmFill := ys.length, response := r } := by
  induction ys using List.reverseRecOn with
  | nil =>
    refine ⟨s.response, congrArg _ (?_ : s = { s with asmFill := 0 })⟩
    rw [← hfill]
  | append_singleton ys y ih =>
    rw [List.length_append, List.length_singleton] at hys
    obtain ⟨r, hr⟩ := ih (by omega)
    have hset := set_scanned (ys := ys) (buf := s.abuf) y.1 (by omega)
    refine ⟨some ⟨.ok, {}, []⟩, ?_⟩
    rw [execAll_pushes_concat y hr, exec_push_store hys, List.length_append, List.length_singleton, List.map_append]
    simp only [hset]
    rfl

/-- A whole scan of pushes, from an empty sequencer, puts its codes, with the last timestamp, into the frame slot. -/
theorem execAll_pushes_scan {s : State} (hfill : s.asmFill = 0) (hbuf : s.abuf.length = s.params.vctTotal)
    {ys : List (Code × Timestamp)} (hys : ys.length + 1 = s.params.vctTotal) (code : Code) (ts : Timestamp) :
    execAll (pushes (ys ++ [(code, ts)])) s =
      .next (({ putFrame { s with abuf := ys.map Prod.fst ++ [code] } ⟨ys.map Prod.fst ++ [code], ts⟩ with
        asmFill := 0 } : State).answer .ok { fdone := true, drop := s.fslot.isSome } []) := by
  obtain ⟨r, hr⟩ := execAll_pushes_partial hfill hbuf ys (by omega)
  have hset := set_scanned (ys := ys) (buf := s.abuf) code (by omega)
  have hend : s.abuf.drop (ys.length + 1) = [] := List.drop_of_length_le (by omega)
  rw [hend, List.append_nil] at hset
  rw [execAll_pushes_concat _ hr, exec_push_complete hys]
  simp only [hset]
  rfl

/-- Settles O12: the rule for a whole scan; the fill is 0 before it and after it. -/
theorem scanOfPushesHandsOverFrame : Obligations.ScanOfPushesHandsOverFrame := by
  intro s ys code ts hfill hbuf hys
  rw [execAll_pushes_scan hfill hbuf hys, ← hfill]
  rfl

/-! ### Scans from reset -/

/-- The slot's entry for the samples of one scan, with the last timestamp (R121, R122); no entry for no samples. -/
def scanEntry (scan : List (Code × Timestamp)) : Option FrameEntry :=
  scan.getLast?.map fun x => ⟨scan.map Prod.fst, x.2⟩

theorem scanEntry_concat (ys : List (Code × Timestamp)) (x : Code × Timestamp) :
    scanEntry (ys ++ [x]) = some ⟨ys.map Prod.fst ++ [x.1], x.2⟩ := by
  simp [scanEntry]

theorem scanEntry_isSome (scan : List (Code × Timestamp)) : (scanEntry scan).isSome = !scan.isEmpty := by
  cases scan <;> simp [scanEntry]

/-- What `q` whole scans of pushes, `xs` in all, leave of the reset state for the parameters `p`. -/
structure AfterScans (p : Params) (q : Nat) (xs : List (Code × Timestamp)) (t : State) : Prop where
  params : t.params = p
  asmFill : t.asmFill = 0
  abuf : t.abuf.length = p.vctTotal
  fslot : t.fslot = scanEntry (xs.drop ((q - 1) * p.vctTotal))
  drops : t.frameDropCount.toNat = min (q - 1) (2 ^ 32 - 1)

theorem afterScans_resetOf (p : Params) : AfterScans p 0 [] (State.resetOf p) where
  params := rfl
  asmFill := rfl
  abuf := List.length_replicate
  fslot := by rw [List.drop_nil]; rfl
  drops := rfl

/-- The slot is full exactly when there was a scan. -/
theorem AfterScans.fslot_isSome_iff {p : Params} {q : Nat} {xs : List (Code × Timestamp)} {s : State}
    (h : AfterScans p q xs s) (hp : 0 < p.vctTotal) (hxs : xs.length = q * p.vctTotal) :
    s.fslot.isSome = true ↔ 0 < q := by
  rw [h.fslot, scanEntry_isSome, Bool.not_eq_true', List.isEmpty_eq_false_iff, ← List.length_pos_iff,
    List.length_drop, Nat.sub_pos_iff_lt, hxs, Nat.mul_lt_mul_right hp]
  omega

/-- A count that saturates at `m`, of events that began one late (R144). -/
theorem min_pred_add_one {n m : Nat} (hn : 0 < n) : min (min (n - 1) m + 1) m = min n m := by
  omega

/-- One more scan: its hand-off was a drop exactly when a scan came before it. -/
theorem AfterScans.scan {p : Params} {q : Nat} {xs scan : List (Code × Timestamp)} {s : State}
    (h : AfterScans p q xs s) (hp : 0 < p.vctTotal) (hxs : xs.length = q * p.vctTotal)
    (hscan : scan.length = p.vctTotal) :
    ∃ t, execAll (pushes scan) s = .next t ∧ AfterScans p (q + 1) (xs ++ scan) t := by
  have hfull := h.fslot_isSome_iff hp hxs
  obtain ⟨rfl, hfill, hbuf, -, hdrops⟩ := h
  obtain ⟨ys, ⟨code, ts⟩, rfl⟩ :=
    (List.eq_nil_or_concat' scan).resolve_left (List.ne_nil_of_length_pos (hscan ▸ hp))
  have hys : ys.length + 1 = s.params.vctTotal := by rwa [List.length_append] at hscan
  refine ⟨_, execAll_pushes_scan hfill hbuf hys code ts, ⟨rfl, rfl, ?_, ?_, ?_⟩⟩
  · simp [hys]
  · rw [Nat.add_sub_cancel, ← hxs, List.drop_left, scanEntry_concat]
    rfl
  · simp only [answer_frameDropCount, putFrame_frameDropCount, hfull]
    split
    · next hq => rw [satIncr_toNat, hdrops, Nat.add_sub_cancel, min_pred_add_one hq]
    · next hq =>
      obtain rfl : q = 0 := Nat.eq_zero_of_not_pos hq
      exact hdrops

/-- Any number of whole scans from reset. -/
theorem execAll_pushes_scans {p : Params} (hp : 0 < p.vctTotal) {q : Nat} {xs : List (Code × Timestamp)}
    (hxs : xs.length = q * p.vctTotal) :
    ∃ t, execAll (pushes xs) (State.resetOf p) = .next t ∧ AfterScans p q xs t := by
  induction q generalizing xs with
  | zero =>
    obtain rfl := List.eq_nil_of_length_eq_zero (hxs.trans (Nat.zero_mul _))
    exact ⟨_, rfl, afterScans_resetOf p⟩
  | succ q ih =>
    rw [Nat.succ_mul] at hxs
    have hbefore : (xs.take (q * p.vctTotal)).length = q * p.vctTotal := List.length_take_of_le (by omega)
    obtain ⟨s, hs, hafter⟩ := ih hbefore
    obtain ⟨t, ht, hafter'⟩ := hafter.scan hp hbefore (scan := xs.drop (q * p.vctTotal)) (by simp [hxs])
    rw [← List.take_append_drop (q * p.vctTotal) xs]
    exact ⟨t, (execAll_pushes_append hs).trans ht, hafter'⟩

/-- A scan of `n` samples from place `i` on: the codes and the timestamp of its entry, read off the whole sequence. -/
theorem scanEntry_slice {xs : List (Code × Timestamp)} {i n : Nat} (hn : 0 < n) (h : i + n ≤ xs.length) :
    ∃ e, scanEntry ((xs.take (i + n)).drop i) = some e ∧ e.frame = ((xs.drop i).take n).map Prod.fst ∧
      (xs[i + n - 1]?).map Prod.snd = some e.ts := by
  have hlast : i + n - 1 < xs.length := by omega
  have hslice : (xs.take (i + n)).drop i = (xs.drop i).take n := by rw [List.drop_take, Nat.add_sub_cancel_left]
  have hget : ((xs.drop i).take n).getLast? = some xs[i + n - 1] := by
    rw [List.getLast?_take, if_neg hn.ne', List.getElem?_drop, ← Nat.add_sub_assoc hn, List.getElem?_eq_getElem hlast]
    rfl
  refine ⟨⟨((xs.drop i).take n).map Prod.fst, xs[i + n - 1].2⟩, ?_, rfl, ?_⟩
  · rw [hslice, scanEntry, hget]
    rfl
  · rw [List.getElem?_eq_getElem hlast]
    rfl

/-- Settles O13: the whole scans, then the samples of the scan that is still being filled. -/
theorem pushesFromResetFillScans : Obligations.PushesFromResetFillScans := by
  intro p xs hlegal
  have hp : 0 < p.vctTotal := Nat.add_pos_left (paramsLegal_v_pos hlegal) _
  obtain ⟨q, hq⟩ : ∃ q, q = xs.length / p.vctTotal := ⟨_, rfl⟩
  have hdiv : q * p.vctTotal + xs.length % p.vctTotal = xs.length := hq ▸ Nat.div_add_mod' _ _
  have hwhole : (xs.take (q * p.vctTotal)).length = q * p.vctTotal := List.length_take_of_le (by omega)
  have hrest : (xs.drop (q * p.vctTotal)).length = xs.length % p.vctTotal := by rw [List.length_drop]; omega
  obtain ⟨s, hs, rfl, hfill, hbuf, hslot, hdrops⟩ := execAll_pushes_scans hp hwhole
  obtain ⟨r, hr⟩ := execAll_pushes_partial hfill hbuf _ (hrest ▸ Nat.mod_lt _ hp)
  have hrun := (execAll_pushes_append hs).trans hr
  rw [List.take_append_drop] at hrun
  rw [← Params.vctTotal, ← hq]
  refine ⟨_, hrun, hrest, hdrops, fun hshort => ?_, fun hlong => ?_⟩
  · obtain rfl : q = 0 := hq.trans (Nat.div_eq_of_lt hshort)
    rw [Nat.zero_mul, List.take_zero, List.drop_nil] at hslot
    exact hslot
  · have hq_pos : 0 < q := hq ▸ Nat.div_pos hlong hp
    have hlast : (q - 1) * s.params.vctTotal + s.params.vctTotal = q * s.params.vctTotal := by
      rw [← Nat.add_one_mul, Nat.sub_add_cancel hq_pos]
    have hend : (q - 1) * s.params.vctTotal + s.params.vctTotal ≤ xs.length := by omega
    obtain ⟨e, he, hframe, hts⟩ := scanEntry_slice hp hend
    rw [hlast] at he hts
    exact ⟨e, hslot.trans he, hframe, hts⟩

end Sys2Proof.Machine
end

section
/-! PROOFS. O59, O31: the comparisons order the patterns by their values (spec/41_arithmetic.md R155), and the clamp
`clamp1` (R158). -/

namespace Sys2Proof.Machine

/-! ### The order of the patterns and of their values -/

/-- The value of the non-NaN pattern at place `k` of the order of R155. -/
def keyValue (k : ℤ) : ℚ := k.sign * gridValue k.natAbs

theorem keyValue_neg (k : ℤ) : keyValue (-k) = -keyValue k := by simp [keyValue]

theorem keyValue_natCast (n : ℕ) : keyValue n = gridValue n := by
  rcases Nat.eq_zero_or_pos n with rfl | hn
  · simp [keyValue, gridValue_zero]
  · simp [keyValue, Int.sign_natCast_of_ne_zero hn.ne']

theorem keyValue_strictMono : StrictMono keyValue := by
  refine strictMono_of_odd_strictMonoOn_nonneg keyValue_neg fun a ha b hb hab => ?_
  obtain ⟨m, rfl⟩ := Int.eq_ofNat_of_zero_le ha
  obtain ⟨n, rfl⟩ := Int.eq_ofNat_of_zero_le hb
  rw [keyValue_natCast, keyValue_natCast]
  exact gridValue_strictMono (by exact_mod_cast hab)

/-- The order key of a pattern determines its value. -/
theorem value_eq_keyValue (x : F32) : value x = keyValue (orderKey x) := by
  rw [value_eq, orderKey_eq]
  split
  · rw [keyValue_neg, keyValue_natCast, neg_one_mul]
  · rw [keyValue_natCast, one_mul]

theorem orderKey_lt_iff (a b : F32) : orderKey a < orderKey b ↔ value a < value b := by
  rw [value_eq_keyValue, value_eq_keyValue, keyValue_strictMono.lt_iff_lt]

/-- The keys of the finite patterns lie strictly between those of the infinities. -/
theorem orderKey_bounds {x : F32} (h : isFinite x = true) : -(infMag : ℤ) < orderKey x ∧ orderKey x < infMag := by
  have hm := (isFinite_iff x).1 h
  rw [orderKey_eq]
  split <;> omega

/-! ### The comparisons -/

theorem isNaN_of_isFinite {x : F32} (h : isFinite x = true) : isNaN x = false := ((isFinite_iff_not x).1 h).1

theorem isInf_of_isFinite {x : F32} (h : isFinite x = true) : isInf x = false := ((isFinite_iff_not x).1 h).2

theorem fgt_eq_decide {a b : F32} (ha : isNaN a = false) (hb : isNaN b = false) :
    fgt a b = decide (orderKey b < orderKey a) := by simp [fgt, ha, hb]

theorem flt_eq_decide {a b : F32} (ha : isNaN a = false) (hb : isNaN b = false) :
    flt a b = decide (orderKey a < orderKey b) := by simp [flt, ha, hb]

theorem fgt_iff_value_lt {a b : F32} (ha : isNaN a = false) (hb : isNaN b = false) :
    fgt a b = true ↔ value b < value a := by
  rw [fgt_eq_decide ha hb, decide_eq_true_iff, orderKey_lt_iff]

theorem flt_iff_value_lt {a b : F32} (ha : isNaN a = false) (hb : isNaN b = false) :
    flt a b = true ↔ value a < value b := by
  rw [flt_eq_decide ha hb, decide_eq_true_iff, orderKey_lt_iff]

/-- Both infinities against a finite pattern, in both orders (R155). -/
theorem compare_infinities {a : F32} (h : isFinite a = true) :
    fgt 0x7F800000#32 a = true ∧ fgt a 0x7F800000#32 = false ∧ flt 0x7F800000#32 a = false ∧
    flt a 0x7F800000#32 = true ∧ flt 0xFF800000#32 a = true ∧ flt a 0xFF800000#32 = false ∧
    fgt 0xFF800000#32 a = false ∧ fgt a 0xFF800000#32 = true := by
  have hn := isNaN_of_isFinite h
  obtain ⟨hlo, hhi⟩ := orderKey_bounds h
  have hpos : isNaN 0x7F800000#32 = false ∧ orderKey 0x7F800000#32 = infMag := by decide
  have hneg : isNaN 0xFF800000#32 = false ∧ orderKey 0xFF800000#32 = -infMag := by decide
  simp only [fgt_eq_decide, flt_eq_decide, hn, hpos, hneg, decide_eq_true_eq, decide_eq_false_iff_not]
  omega

/-- Settles O59. -/
theorem comparisonsAreOfValues : Obligations.ComparisonsAreOfValues := by
  refine ⟨fun a b ha hb => ?_, fun a b h => ?_, fun a => compare_infinities, by decide, fun x => ?_⟩
  · have ha := isNaN_of_isFinite ha
    have hb := isNaN_of_isFinite hb
    exact ⟨fgt_iff_value_lt ha hb, flt_iff_value_lt ha hb⟩
  · rcases h with h | h <;> simp [fgt, flt, h]
  · simp [isNaN]

/-! ### The clamp -/

theorem value_fOne : value fOne = 1 := by
  have h : signBit fOne = false ∧ magBits fOne = 0x3F800000 := by decide
  rw [value_eq, h.1, h.2, gridValue_one]; norm_num

theorem value_fNegOne : value fNegOne = -1 := by
  have h : signBit fNegOne = true ∧ magBits fNegOne = 0x3F800000 := by decide
  rw [value_eq, h.1, h.2, gridValue_one]; norm_num

theorem isNaN_fOne : isNaN fOne = false := by decide

theorem isNaN_fNegOne : isNaN fNegOne = false := by decide

/-- The four outcomes of `clamp1` (R158). -/
theorem clamp1_cases (x : F32) :
    (isNaN x = true ∧ clamp1 defaultNumerics x = x) ∨
    (isNaN x = false ∧ flt x fNegOne = true ∧ clamp1 defaultNumerics x = fNegOne) ∨
    (isNaN x = false ∧ fgt x fOne = true ∧ clamp1 defaultNumerics x = fOne) ∨
    (isNaN x = false ∧ flt x fNegOne = false ∧ fgt x fOne = false ∧ clamp1 defaultNumerics x = x) := by
  rw [clamp1_default]
  split_ifs with hn hlo hhi
  · exact .inl ⟨hn, rfl⟩
  · exact .inr (.inl ⟨eq_false_of_ne_true hn, hlo, rfl⟩)
  · exact .inr (.inr (.inl ⟨eq_false_of_ne_true hn, hhi, rfl⟩))
  · exact .inr (.inr (.inr ⟨eq_false_of_ne_true hn, eq_false_of_ne_true hlo, eq_false_of_ne_true hhi, rfl⟩))

/-- R158, R199: without any premise the clamp leaves a NaN or a number that compares inside `[-1, 1]`. -/
theorem pfInRange_clamp1 (x : F32) : pfInRange (clamp1 defaultNumerics x) := by
  rcases clamp1_cases x with ⟨hn, h⟩ | ⟨-, -, h⟩ | ⟨-, -, h⟩ | ⟨-, hlo, hhi, h⟩ <;> rw [h]
  · exact .inl hn
  · exact .inr (by decide)
  · exact .inr (by decide)
  · exact .inr ⟨hlo, hhi⟩

/-- The clamp makes no NaN. -/
theorem isNaN_clamp1 {x : F32} (hx : isNaN x = false) : isNaN (clamp1 defaultNumerics x) = false := by
  rcases clamp1_cases x with ⟨-, h⟩ | ⟨-, -, h⟩ | ⟨-, -, h⟩ | ⟨-, -, -, h⟩ <;> rw [h]
  · exact hx
  · exact isNaN_fNegOne
  · exact isNaN_fOne
  · exact hx

theorem pfInUnit_clamp1 {x : F32} (hx : isNaN x = false) : pfInUnit (clamp1 defaultNumerics x) :=
  pfInUnit_of_pfInRange (isNaN_clamp1 hx) (pfInRange_clamp1 x)

/-- Settles O31. -/
theorem clampKeepsUnitInterval : Obligations.ClampKeepsUnitInterval := by
  intro x
  have hlt : isFinite x = true → (flt x fNegOne = true ↔ value x < -1) := fun hx => by
    rw [flt_iff_value_lt (isNaN_of_isFinite hx) isNaN_fNegOne, value_fNegOne]
  have hgt : isFinite x = true → (fgt x fOne = true ↔ 1 < value x) := fun hx => by
    rw [fgt_iff_value_lt (isNaN_of_isFinite hx) isNaN_fOne, value_fOne]
  refine ⟨fun hn => ?_, pfInUnit_clamp1, fun hx hlo hhi => ?_, fun hx hlo => ?_, fun hx hhi => ?_,
    by decide, by decide⟩
  · simp [clamp1_default, hn]
  · have h1 : flt x fNegOne = false := by rw [← Bool.not_eq_true, hlt hx]; exact hlo.not_gt
    have h2 : fgt x fOne = false := by rw [← Bool.not_eq_true, hgt hx]; exact hhi.not_gt
    simp [clamp1_default, h1, h2]
  · rw [clamp1_default, isNaN_of_isFinite hx, (hlt hx).2 hlo]; rfl
  · have h1 : flt x fNegOne = false := by rw [← Bool.not_eq_true, hlt hx]; linarith
    rw [clamp1_default, isNaN_of_isFinite hx, h1, (hgt hx).2 hhi]; rfl

end Sys2Proof.Machine
end

section
/-! PROOFS. O56, O57, O60: the arithmetic operations and the conversions of the default record are correctly rounded
(spec/41_arithmetic.md R152, R156, R157). Each is one call of `roundMag` on an exact magnitude, so each proof says which
magnitude that is. -/

namespace Sys2Proof.Machine

/-! ### Zeros, and magnitudes that `roundMag` is given exactly -/

theorem isFinite_of_isZero {x : F32} (h : isZero x = true) : isFinite x = true := by
  rw [isFinite_iff, (isZero_iff x).1 h]; decide

theorem value_of_isZero {x : F32} (h : isZero x = true) : value x = 0 := by
  rw [value_eq, (isZero_iff x).1 h, gridValue_zero, mul_zero]

/-- A zero of either sign is the rounding of 0. -/
theorem roundsTo_zero {r : F32} (h : isZero r = true) : RoundsTo 0 r := by
  have hpos : ¬ (overflowBound : ℝ) ≤ |(0 : ℝ)| := by
    rw [abs_zero, not_le]; exact_mod_cast (by norm_num [overflowBound] : (0 : ℚ) < overflowBound)
  rw [RoundsTo, if_neg hpos]
  refine ⟨isFinite_of_isZero h, fun c _ => ?_⟩
  rw [value_of_isZero h, Rat.cast_zero, sub_zero, abs_zero]
  refine ⟨abs_nonneg _, fun he hne => absurd ?_ hne⟩
  simpa using he.symm

theorem isZero_withSign_zero (neg : Bool) : isZero (withSign neg 0) = true := by cases neg <;> decide

/-- `roundsTo_withSign_roundMag` with the sign as a factor. -/
theorem roundsTo_signed {x y : ℝ} {m : Nat} {e : Int} {sticky neg : Bool} (hm : m ≠ 0)
    (hs : sticky = true → 2 ^ 25 ≤ m) (hx : Between x m e sticky) (hy : y = (if neg then -1 else 1) * x) :
    RoundsTo y (withSign neg (roundMag m e sticky)) := by
  have h := roundsTo_withSign_roundMag neg hm hs hx
  cases neg <;> simpa [hy] using h

/-- An exact `±m * 2^e` is rounded correctly. -/
theorem roundsTo_exact {x : ℝ} {neg : Bool} {m : Nat} {e : Int} (hx : x = (if neg then -1 else 1) * (m * 2 ^ e)) :
    RoundsTo x (withSign neg (roundMag m e false)) := by
  rcases eq_or_ne m 0 with rfl | hm
  · have h0 : x = 0 := by simp [hx]
    rw [h0]
    exact roundsTo_zero (isZero_withSign_zero neg)
  · exact roundsTo_signed hm nofun rfl hx

/-! ### The value of a finite pattern as an integer on a common scale -/

theorem value_eq_alignedInt (x : F32) {e : Int} (he : e ≤ scaleExp x) : value x = alignedInt x e * 2 ^ e := by
  have hpow : (2 : ℚ) ^ scaleExp x = 2 ^ (scaleExp x - e).toNat * 2 ^ e := by
    rw [← zpow_natCast, ← zpow_add₀ two_ne_zero]
    congr 1
    omega
  rw [value, hpow, alignedInt]
  split <;> push_cast <;> ring

/-- R151, in the reals. -/
theorem value_cast_eq (x : F32) :
    (value x : ℝ) = (if signBit x then -1 else 1) * significand x * 2 ^ scaleExp x := by
  rw [value]
  split <;> push_cast <;> rfl

theorem significand_lt (x : F32) : significand x < 2 ^ 24 := by
  have : fracField x < 2 ^ 23 := by rw [fracField_eq]; exact Nat.mod_lt _ (by norm_num)
  unfold significand
  split <;> omega

theorem significand_eq_zero_iff (x : F32) : significand x = 0 ↔ isZero x = true := by
  simp only [significand, isZero, Bool.and_eq_true, beq_iff_eq]
  split <;> omega

theorem significand_pos {x : F32} (h : isZero x = false) : 0 < significand x := by
  rw [Nat.pos_iff_ne_zero, Ne, significand_eq_zero_iff, h]
  exact Bool.false_ne_true

theorem value_ne_zero_iff (x : F32) : value x ≠ 0 ↔ isZero x = false := by
  rw [← Bool.not_eq_true, ← significand_eq_zero_iff, value]
  have hp : (2 : ℚ) ^ scaleExp x ≠ 0 := zpow_ne_zero _ two_ne_zero
  split <;> simp [hp]

/-- Signs multiply. -/
theorem sign_bne (s t : Bool) :
    (if s != t then (-1 : ℝ) else 1) = (if s then -1 else 1) * (if t then -1 else 1) := by
  cases s <;> cases t <;> norm_num

/-! ### Sum and product -/

theorem fadd_finite {a b : F32} (ha : isFinite a = true) (hb : isFinite b = true) :
    fadd a b =
      let e := min (scaleExp a) (scaleExp b)
      let sum := alignedInt a e + alignedInt b e
      if sum = 0 then withSign (signBit a && signBit b) 0
      else withSign (decide (sum < 0)) (roundMag sum.natAbs e false) := by
  simp [fadd, isNaN_of_isFinite, isInf_of_isFinite, ha, hb]

theorem fmul_finite {a b : F32} (ha : isFinite a = true) (hb : isFinite b = true) :
    fmul a b = withSign (signBit a != signBit b)
      (roundMag (significand a * significand b) (scaleExp a + scaleExp b) false) := by
  simp [fmul, isNaN_of_isFinite, isInf_of_isFinite, ha, hb]

/-- An integer is its sign and its absolute value. -/
theorem intCast_eq_sign_natAbs (k : ℤ) : (k : ℝ) = (if decide (k < 0) then -1 else 1) * (k.natAbs : ℝ) := by
  rw [Nat.cast_natAbs]
  by_cases h : k < 0
  · simp [h, abs_of_neg h]
  · simp [h, abs_of_nonneg (not_lt.1 h)]

theorem roundsTo_fadd {a b : F32} (ha : isFinite a = true) (hb : isFinite b = true) :
    RoundsTo ((value a + value b : ℚ) : ℝ) (fadd a b) := by
  rw [fadd_finite ha hb, value_eq_alignedInt a (min_le_left _ (scaleExp b)),
    value_eq_alignedInt b (min_le_right (scaleExp a) _), ← add_mul]
  generalize min (scaleExp a) (scaleExp b) = e
  simp only [← Int.cast_add]
  generalize alignedInt a e + alignedInt b e = sum
  split
  · next h0 =>
    rw [h0, Int.cast_zero, zero_mul, Rat.cast_zero]
    exact roundsTo_zero (isZero_withSign_zero _)
  · apply roundsTo_exact
    push_cast
    rw [intCast_eq_sign_natAbs sum, mul_assoc]

theorem roundsTo_fmul {a b : F32} (ha : isFinite a = true) (hb : isFinite b = true) :
    RoundsTo ((value a * value b : ℚ) : ℝ) (fmul a b) := by
  rw [fmul_finite ha hb]
  apply roundsTo_exact
  rw [Rat.cast_mul, value_cast_eq, value_cast_eq, sign_bne, zpow_add₀ two_ne_zero, Nat.cast_mul]
  ring

/-- Settles O56. -/
theorem addAndMultiplyRoundCorrectly : Obligations.AddAndMultiplyRoundCorrectly :=
  fun _ _ ha hb => ⟨roundsTo_fadd ha hb, roundsTo_fmul ha hb⟩

/-! ### Quotient -/

theorem fdiv_finite {a b : F32} (ha : isFinite a = true) (hb : isFinite b = true) (hz : isZero b = false) :
    fdiv a b = withSign (signBit a != signBit b) (roundMag (significand a * 2 ^ 50 / significand b)
      (scaleExp a - scaleExp b - 50) (decide (significand a * 2 ^ 50 % significand b ≠ 0))) := by
  simp [fdiv, isNaN_of_isFinite, isInf_of_isFinite, ha, hb, hz]

/-- A quotient of naturals lies where its integer quotient and remainder say. -/
theorem between_div {n d : Nat} (hd : 0 < d) (e : Int) :
    Between ((n : ℝ) / d * 2 ^ e) (n / d) e (decide (n % d ≠ 0)) := by
  have hd' : (0 : ℝ) < d := by exact_mod_cast hd
  have h2 : (0 : ℝ) < 2 ^ e := by positivity
  have hq : (n : ℝ) / d = (n / d : ℕ) + ((n % d : ℕ) : ℝ) / d := by
    rw [eq_comm, eq_div_iff hd'.ne', add_mul, div_mul_cancel₀ _ hd'.ne']
    exact_mod_cast Nat.div_add_mod' n d
  unfold Between
  split
  · next hr =>
    have hr : (0 : ℝ) < (n % d : ℕ) := by exact_mod_cast Nat.pos_of_ne_zero (of_decide_eq_true hr)
    have hfrac : ((n % d : ℕ) : ℝ) / d < 1 := (div_lt_one hd').2 (by exact_mod_cast Nat.mod_lt n hd)
    have hpos : 0 < ((n % d : ℕ) : ℝ) / d := div_pos hr hd'
    exact ⟨mul_lt_mul_of_pos_right (by linarith) h2, mul_lt_mul_of_pos_right (by linarith) h2⟩
  · next hr =>
    have hr : n % d = 0 := by simpa using hr
    rw [hq, hr, Nat.cast_zero, zero_div, add_zero]

theorem roundsTo_fdiv {a b : F32} (ha : isFinite a = true) (hb : isFinite b = true) (hz : isZero b = false) :
    RoundsTo ((value a / value b : ℚ) : ℝ) (fdiv a b) := by
  have hd := significand_pos hz
  rw [fdiv_finite ha hb hz]
  rcases eq_or_ne (significand a) 0 with h0 | h0
  · have hv : value a = 0 := value_of_isZero ((significand_eq_zero_iff a).1 h0)
    rw [hv, h0, zero_div, Rat.cast_zero, zero_mul, Nat.zero_div]
    exact roundsTo_zero (isZero_withSign_zero _)
  · have hbig : 2 ^ 26 ≤ significand a * 2 ^ 50 / significand b := by
      rw [Nat.le_div_iff_mul_le hd]
      have := significand_lt b
      omega
    refine roundsTo_signed (by omega) (fun _ => by omega) (between_div hd _) ?_
    have hinv : (if signBit b then -1 else 1 : ℝ)⁻¹ = if signBit b then -1 else 1 := by split <;> norm_num
    rw [Rat.cast_div, value_cast_eq, value_cast_eq, sign_bne, zpow_sub₀ two_ne_zero, zpow_sub₀ two_ne_zero,
      div_eq_mul_inv, mul_inv, mul_inv, hinv]
    push_cast
    ring

/-! ### Square root -/

theorem fsqrt_positive {a : F32} (ha : isFinite a = true) (hz : isZero a = false) (hs : signBit a = false) :
    fsqrt a =
      let t : Nat := if scaleExp a % 2 = 0 then 52 else 53
      let n := significand a * 2 ^ t
      withSign false (roundMag (isqrt n) ((scaleExp a - t) / 2) (decide (isqrt n * isqrt n ≠ n))) := by
  simp [fsqrt, isNaN_of_isFinite, isInf_of_isFinite, ha, hz, hs]

theorem fsqrt_zero {a : F32} (hz : isZero a = true) : fsqrt a = a := by
  have hn : isNaN a = false := isNaN_of_isFinite (isFinite_of_isZero hz)
  simp [fsqrt, hn, hz]

/-- Only a zero has a sign and no negative value. -/
theorem signBit_of_value_nonneg {a : F32} (hv : 0 ≤ value a) (hz : isZero a = false) : signBit a = false := by
  by_contra hs
  rw [Bool.not_eq_false] at hs
  have hpos : 0 < gridValue (magBits a) :=
    gridValue_zero ▸ gridValue_strictMono (Nat.pos_of_ne_zero fun h => by simp [(isZero_iff a).2 h] at hz)
  rw [value_eq, hs, if_pos rfl] at hv
  linarith

/-- A root lies where its integer root says. -/
theorem between_sqrt {n r : Nat} (hlo : r * r ≤ n) (hhi : n < (r + 1) * (r + 1)) (e : Int) :
    Between (√(n : ℝ) * 2 ^ e) r e (decide (r * r ≠ n)) := by
  have h2 : (0 : ℝ) < 2 ^ e := by positivity
  have hr : (0 : ℝ) ≤ r := Nat.cast_nonneg r
  unfold Between
  split
  · next hne =>
    have hne : r * r < n := lt_of_le_of_ne hlo (of_decide_eq_true hne)
    have h1 : (r : ℝ) < √n := Real.lt_sqrt_of_sq_lt (by rw [sq]; exact_mod_cast hne)
    have h2' : √(n : ℝ) < r + 1 := (Real.sqrt_lt' (by linarith)).2 (by rw [sq]; exact_mod_cast hhi)
    exact ⟨mul_lt_mul_of_pos_right h1 h2, mul_lt_mul_of_pos_right h2' h2⟩
  · next heq =>
    have heq : r * r = n := by simpa using heq
    rw [← heq, Nat.cast_mul, Real.sqrt_mul_self hr]

/-- The scaled significand of `fsqrt` leaves an even exponent. -/
theorem sqrt_value_eq {a : F32} (hs : signBit a = false) {t : Nat} (heven : (scaleExp a - t) % 2 = 0) :
    √((value a : ℚ) : ℝ) = √((significand a * 2 ^ t : ℕ) : ℝ) * 2 ^ ((scaleExp a - t) / 2) := by
  obtain ⟨e, he⟩ : ∃ e : ℤ, scaleExp a = t + (e + e) := ⟨(scaleExp a - t) / 2, by omega⟩
  have hhalf : (scaleExp a - t) / 2 = e := by omega
  have hpos : (0 : ℝ) ≤ 2 ^ e := by positivity
  have hv : (value a : ℝ) = (significand a * 2 ^ t : ℕ) * (2 ^ e * 2 ^ e) := by
    rw [value_cast_eq, hs, if_neg Bool.false_ne_true, he, zpow_add₀ two_ne_zero, zpow_add₀ two_ne_zero, zpow_natCast]
    push_cast
    ring
  rw [hhalf, hv, Real.sqrt_mul (Nat.cast_nonneg _), Real.sqrt_mul_self hpos]

theorem roundsTo_fsqrt {a : F32} (ha : isFinite a = true) (hv : 0 ≤ value a) :
    RoundsTo √((value a : ℚ) : ℝ) (fsqrt a) := by
  cases hz : isZero a with
  | true =>
    rw [value_of_isZero hz, Rat.cast_zero, Real.sqrt_zero, fsqrt_zero hz]
    exact roundsTo_zero hz
  | false =>
    have hs := signBit_of_value_nonneg hv hz
    rw [fsqrt_positive ha hz hs]
    extract_lets t n
    have ht : 52 ≤ t ∧ t ≤ 53 ∧ (scaleExp a - t) % 2 = 0 := by
      simp only [t]
      split <;> omega
    obtain ⟨ht52, ht53, heven⟩ := ht
    have hlo : 2 ^ 52 ≤ n :=
      (Nat.pow_le_pow_right two_pos ht52).trans (Nat.le_mul_of_pos_left _ (significand_pos hz))
    have hhi : n < 2 ^ 80 := calc
      n ≤ significand a * 2 ^ 53 := Nat.mul_le_mul_left _ (Nat.pow_le_pow_right two_pos ht53)
      _ < 2 ^ 80 := by have := significand_lt a; omega
    obtain ⟨hrlo, hrhi⟩ := isqrt_spec hhi
    have hbig : 2 ^ 25 ≤ isqrt n := by
      by_contra hsmall
      have hle : isqrt n + 1 ≤ 2 ^ 25 := by omega
      have := Nat.mul_le_mul hle hle
      omega
    refine roundsTo_signed (by omega) (fun _ => hbig) (between_sqrt hrlo hrhi _) ?_
    rw [sqrt_value_eq hs heven, if_neg Bool.false_ne_true, one_mul]

/-- Settles O57. -/
theorem divideAndRootRoundCorrectly : Obligations.DivideAndRootRoundCorrectly :=
  fun _ b ha hb => ⟨fun hne => roundsTo_fdiv ha hb ((value_ne_zero_iff b).1 hne), roundsTo_fsqrt ha⟩

/-! ### Conversions -/

theorem roundsTo_u2f (n : Nat) : RoundsTo (n : ℝ) (u2f n) := roundsTo_exact (by simp)

theorem roundsTo_i2f (d : ℤ) : RoundsTo (d : ℝ) (i2f d) :=
  roundsTo_exact (by rw [zpow_zero, mul_one]; exact intCast_eq_sign_natAbs d)

/-- On natural numbers the two conversions agree. -/
theorem i2f_natCast (n : ℕ) : i2f n = u2f n := by
  rw [i2f, decide_eq_false (Int.natCast_nonneg n).not_gt, Int.natAbs_natCast, u2f]

/-- Below the overflow bound a correctly rounded result is finite and at least as near as any other finite value. -/
theorem RoundsTo.nearest {x : ℝ} {r : F32} (h : RoundsTo x r) (hx : |x| < overflowBound) :
    isFinite r = true ∧ ∀ c, isFinite c = true → |x - (value r : ℝ)| ≤ |x - (value c : ℝ)| := by
  rw [RoundsTo, if_neg (not_le.2 hx)] at h
  exact ⟨h.1, fun c hc => (h.2 c hc).1⟩

theorem abs_value (x : F32) : |value x| = gridValue (magBits x) := by
  rw [value_eq, abs_mul, abs_of_nonneg (gridValue_nonneg _)]
  split <;> simp

theorem abs_value_lt_overflowBound {x : F32} (h : isFinite x = true) : |value x| < overflowBound := by
  have hle : magBits x ≤ infMag - 1 := Nat.le_sub_one_of_lt ((isFinite_iff x).1 h)
  calc |value x| ≤ gridValue (infMag - 1) := abs_value x ▸ gridValue_strictMono.monotone hle
    _ < overflowBound := by rw [gridValue_maxFinite]; norm_num [overflowBound]

/-- A finite pattern's value is rounded to itself. -/
theorem RoundsTo.value_eq_of_finite {r c : F32} (hc : isFinite c = true) (h : RoundsTo (value c : ℝ) r) :
    isFinite r = true ∧ value r = value c := by
  obtain ⟨hfin, hnear⟩ := h.nearest (by exact_mod_cast abs_value_lt_overflowBound hc)
  have hle := hnear c hc
  rw [sub_self, abs_zero] at hle
  have heq := sub_eq_zero.1 (abs_nonpos_iff.1 hle)
  exact ⟨hfin, by exact_mod_cast heq.symm⟩

/-- A positive integer up to `2^24` scales by a power of 2 into a full significand. -/
theorem exists_full_significand {n : ℕ} (hn : n ≠ 0) (h : n ≤ 2 ^ 24) :
    ∃ k ≤ 23, 2 ^ 23 ≤ n * 2 ^ k ∧ n * 2 ^ k ≤ 2 ^ 24 := by
  refine ⟨23 - Nat.log2 n, Nat.sub_le _ _, ?_, ?_⟩
  · calc 2 ^ 23 ≤ 2 ^ (Nat.log2 n + (23 - Nat.log2 n)) := Nat.pow_le_pow_right two_pos (by omega)
      _ = 2 ^ Nat.log2 n * 2 ^ (23 - Nat.log2 n) := pow_add ..
      _ ≤ n * 2 ^ (23 - Nat.log2 n) := Nat.mul_le_mul_right _ (Nat.log2_self_le hn)
  · rcases Nat.lt_or_ge 23 (Nat.log2 n) with hL | hL
    · rw [Nat.sub_eq_zero_of_le hL.le, pow_zero, mul_one]; exact h
    · calc n * 2 ^ (23 - Nat.log2 n) ≤ 2 ^ (Nat.log2 n + 1) * 2 ^ (23 - Nat.log2 n) :=
            Nat.mul_le_mul_right _ Nat.lt_log2_self.le
        _ = 2 ^ (Nat.log2 n + 1 + (23 - Nat.log2 n)) := (pow_add ..).symm
        _ = 2 ^ 24 := by congr 1; omega

/-- The integers up to `2^24` are values of finite patterns. -/
theorem exists_value_eq_natCast {n : ℕ} (h : n ≤ 2 ^ 24) : ∃ c : F32, isFinite c = true ∧ value c = n := by
  rcases eq_or_ne n 0 with rfl | hn
  · exact ⟨fZero, by decide, by rw [value_of_isZero (by decide), Nat.cast_zero]⟩
  obtain ⟨k, hk, hlo, hhi⟩ := exists_full_significand hn h
  have hmag : (149 - k) * 2 ^ 23 + n * 2 ^ k < infMag := by unfold infMag; omega
  have hmag31 := hmag.trans infMag_lt
  refine ⟨withSign false ((149 - k) * 2 ^ 23 + n * 2 ^ k), ?_, ?_⟩
  · rw [isFinite_iff, magBits_withSign _ hmag31]; exact hmag
  · have hexp : ((149 - k : ℕ) : ℤ) - 149 = -(k : ℤ) := by omega
    rw [value_withSign _ hmag31, gridValue_scaled (.inr hlo) hhi, hexp, zpow_neg, zpow_natCast,
      if_neg Bool.false_ne_true]
    push_cast
    field_simp

/-- The conversion is exact up to `2^24` (R156). -/
theorem value_u2f_exact {n : ℕ} (h : n ≤ 2 ^ 24) : isFinite (u2f n) = true ∧ value (u2f n) = n := by
  obtain ⟨c, hc, hv⟩ := exists_value_eq_natCast h
  have hr : RoundsTo (value c : ℝ) (u2f n) := by rw [hv, Rat.cast_natCast]; exact roundsTo_u2f n
  exact hv ▸ hr.value_eq_of_finite hc

theorem isFinite_u2f {n : ℕ} (h : n ≤ 2 ^ 32) : isFinite (u2f n) = true := by
  refine ((roundsTo_u2f n).nearest ?_).1
  have hn : (n : ℝ) ≤ 2 ^ 32 := by exact_mod_cast h
  rw [abs_of_nonneg n.cast_nonneg]
  exact hn.trans_lt (by norm_num [overflowBound])

/-- Rounding keeps a positive count at 1 or above: 1 is a finite value. -/
theorem one_le_value_u2f {n : ℕ} (hn : 1 ≤ n) (hf : isFinite (u2f n) = true) : 1 ≤ value (u2f n) := by
  have hr := roundsTo_u2f n
  by_cases hx : |(n : ℝ)| < overflowBound
  · have hle := (hr.nearest hx).2 fOne (by decide)
    have hn' : (1 : ℝ) ≤ n := by exact_mod_cast hn
    rw [value_fOne, Rat.cast_one, abs_of_nonneg (by linarith : (0 : ℝ) ≤ n - 1)] at hle
    have : (1 : ℝ) ≤ value (u2f n) := by linarith [le_abs_self ((n : ℝ) - value (u2f n))]
    exact_mod_cast this
  · rw [RoundsTo, if_pos (not_lt.1 hx)] at hr
    rw [hr, isFinite_iff, magBits_withSign _ infMag_lt] at hf
    exact absurd hf (lt_irrefl _)

theorem signBit_u2f (n : ℕ) : signBit (u2f n) = false := signBit_withSign _ (roundMag_lt _ _ _)

/-- R157: a positive difference of two timestamps converts to a positive normal number. -/
theorem expField_u2f {n : ℕ} (hn : 1 ≤ n) (h : n ≤ 2 ^ 32) :
    1 ≤ expField (u2f n) ∧ expField (u2f n) ≤ 254 := by
  have hf := isFinite_u2f h
  have hmax := (isFinite_iff _).1 hf
  have hone := one_le_value_u2f hn hf
  rw [value_eq, signBit_u2f, if_neg Bool.false_ne_true, one_mul, ← gridValue_one,
    gridValue_strictMono.le_iff_le] at hone
  rw [expField_eq]
  unfold infMag at hmax
  omega

/-- Settles O60. -/
theorem conversionsRoundCorrectly : Obligations.ConversionsRoundCorrectly := by
  refine ⟨roundsTo_u2f, fun n => value_u2f_exact, by decide, roundsTo_i2f, fun d h1 h2 => ?_, fun d h1 h2 => ?_,
    by decide +kernel⟩
  · obtain ⟨n, rfl⟩ := Int.eq_ofNat_of_zero_le (zero_le_one.trans h1)
    rw [i2f_natCast, (value_u2f_exact (by omega)).2, Int.cast_natCast]
  · obtain ⟨n, rfl⟩ := Int.eq_ofNat_of_zero_le (zero_le_one.trans h1)
    rw [i2f_natCast]
    exact ⟨signBit_u2f n, expField_u2f (by omega) (by omega)⟩

end Sys2Proof.Machine
end

section
/-! PROOFS. O58: the operations of the default record on NaNs, infinities and zeros (spec/41_arithmetic.md R153; R216 c
for an infinity in a sum). -/

namespace Sys2Proof.Machine

/-! ### The kinds of a pattern exclude each other -/

theorem isNaN_of_isInf {x : F32} (h : isInf x = true) : isNaN x = false := by
  rw [← Bool.not_eq_true, isNaN_iff, (isInf_iff x).1 h]; exact lt_irrefl _

theorem isZero_of_isInf {x : F32} (h : isInf x = true) : isZero x = false := by
  rw [← Bool.not_eq_true, isZero_iff, (isInf_iff x).1 h]; decide

theorem isInf_withSign_infMag (neg : Bool) : isInf (withSign neg infMag) = true := by cases neg <;> decide

/-! ### A NaN operand -/

theorem isNaN_operand {a b : F32} (h : isNaN a = true ∨ isNaN b = true) :
    isNaN (fadd a b) = true ∧ isNaN (fmul a b) = true ∧ isNaN (fdiv a b) = true := by
  rcases h with h | h <;> simp [fadd, fmul, fdiv, h]

theorem isNaN_fsqrt_of_isNaN {a : F32} (h : isNaN a = true) : isNaN (fsqrt a) = true := by
  simp [fsqrt, h]

/-! ### Sums -/

theorem isNaN_fadd_opposite_infinities {a b : F32} (ha : isInf a = true) (hb : isInf b = true)
    (hs : signBit a ≠ signBit b) : isNaN (fadd a b) = true := by
  simp [fadd, isNaN_of_isInf, ha, hb, hs]

theorem fadd_equal_infinities {a b : F32} (ha : isInf a = true) (hb : isInf b = true) (hs : signBit a = signBit b) :
    fadd a b = a := by
  simp [fadd, isNaN_of_isInf, ha, hb, hs]

/-- R216 c: a sum keeps an infinity. -/
theorem fadd_infinity_finite {a b : F32} (ha : isInf a = true) (hb : isFinite b = true) :
    fadd a b = a ∧ fadd b a = a := by
  simp [fadd, isNaN_of_isInf ha, isNaN_of_isFinite hb, isInf_of_isFinite hb, ha]

/-! ### The pattern with the sign flipped -/

theorem magBits_negate (a : F32) : magBits (a ^^^ 0x80000000#32) = magBits a := by
  have h : (0x80000000#32).toNat = 2 ^ 31 := rfl
  rw [magBits, magBits, BitVec.toNat_xor, h, Nat.xor_mod_two_pow]
  simp

theorem signBit_negate (a : F32) : signBit (a ^^^ 0x80000000#32) = !signBit a := by
  simp [signBit]

theorem value_negate (a : F32) : value (a ^^^ 0x80000000#32) = -value a := by
  rw [value_eq, value_eq, magBits_negate, signBit_negate]
  cases signBit a <;> simp

theorem isFinite_negate {a : F32} (h : isFinite a = true) : isFinite (a ^^^ 0x80000000#32) = true := by
  rw [isFinite_iff, magBits_negate]; exact (isFinite_iff a).1 h

/-- R153: `x + (-x)` is `+0.0`. -/
theorem fadd_negate {a : F32} (h : isFinite a = true) : fadd a (a ^^^ 0x80000000#32) = 0x00000000#32 := by
  have hb := isFinite_negate h
  rw [fadd_finite h hb]
  extract_lets e sum
  have hsum : (sum : ℚ) * 2 ^ e = 0 := by
    rw [Int.cast_add, add_mul, ← value_eq_alignedInt a (min_le_left _ _),
      ← value_eq_alignedInt _ (min_le_right _ _), value_negate, add_neg_cancel]
  have h0 : sum = 0 := by
    exact_mod_cast (mul_eq_zero.1 hsum).resolve_right (zpow_ne_zero _ two_ne_zero)
  rw [if_pos h0, signBit_negate, Bool.and_not_self]
  rfl

/-! ### Products -/

theorem isNaN_fmul_infinity_zero {a b : F32} (ha : isInf a = true) (hb : isZero b = true) :
    isNaN (fmul a b) = true ∧ isNaN (fmul b a) = true := by
  simp [fmul, isNaN_of_isInf ha, isNaN_of_isFinite (isFinite_of_isZero hb), ha, hb]

theorem isInf_fmul {a b : F32} (ha : isInf a = true) (hb : isNaN b = false) (hz : isZero b = false) :
    isInf (fmul a b) = true ∧ isInf (fmul b a) = true := by
  simp [fmul, isNaN_of_isInf ha, isZero_of_isInf ha, ha, hb, hz, isInf_withSign_infMag]

/-- R153: the sign of a product. -/
theorem signBit_fmul {a b : F32} (h : isNaN (fmul a b) = false) : signBit (fmul a b) = (signBit a != signBit b) := by
  unfold fmul at h ⊢
  extract_lets at h ⊢
  split_ifs at h ⊢
  · simp at h
  · simp at h
  · exact signBit_withSign _ infMag_lt
  · exact signBit_withSign _ (roundMag_lt _ _ _)

/-! ### Quotients -/

theorem isNaN_fdiv_zeros {a b : F32} (ha : isZero a = true) (hb : isZero b = true) : isNaN (fdiv a b) = true := by
  simp [fdiv, isNaN_of_isFinite (isFinite_of_isZero ha), isNaN_of_isFinite (isFinite_of_isZero hb), ha, hb]

theorem isNaN_fdiv_infinities {a b : F32} (ha : isInf a = true) (hb : isInf b = true) : isNaN (fdiv a b) = true := by
  simp [fdiv, isNaN_of_isInf, ha, hb]

/-- R153: a non-zero number divided by a zero. -/
theorem fdiv_by_zero {a b : F32} (ha : isFinite a = true) (hz : isZero a = false) (hb : isZero b = true) :
    fdiv a b = withSign (signBit a != signBit b) infMag := by
  simp [fdiv, isNaN_of_isFinite ha, isInf_of_isFinite ha, isNaN_of_isFinite (isFinite_of_isZero hb), hz, hb]

theorem fdiv_infinity_finite {a b : F32} (ha : isInf a = true) (hb : isFinite b = true) :
    fdiv a b = withSign (signBit a != signBit b) infMag := by
  simp [fdiv, isNaN_of_isInf ha, isZero_of_isInf ha, isNaN_of_isFinite hb, isInf_of_isFinite hb, ha]

theorem fdiv_finite_infinity {a b : F32} (ha : isFinite a = true) (hb : isInf b = true) :
    fdiv a b = withSign (signBit a != signBit b) 0 := by
  simp [fdiv, isNaN_of_isFinite ha, isInf_of_isFinite ha, isNaN_of_isInf hb, isZero_of_isInf hb, hb]

/-- R153: the sign of a quotient. -/
theorem signBit_fdiv {a b : F32} (h : isNaN (fdiv a b) = false) : signBit (fdiv a b) = (signBit a != signBit b) := by
  unfold fdiv at h ⊢
  extract_lets at h ⊢
  split_ifs at h ⊢
  · simp at h
  · simp at h
  · exact signBit_withSign _ infMag_lt
  · exact signBit_withSign _ (by decide)
  · exact signBit_withSign _ (roundMag_lt _ _ _)

/-! ### Roots -/

theorem isNaN_fsqrt_of_signBit {a : F32} (hn : isNaN a = false) (hz : isZero a = false) (hs : signBit a = true) :
    isNaN (fsqrt a) = true := by
  simp [fsqrt, hn, hz, hs]

/-- R153: a number below zero has no root. -/
theorem isNaN_fsqrt_negative {a : F32} (hn : isNaN a = false) (hv : value a < 0) : isNaN (fsqrt a) = true := by
  have hz : isZero a = false := (value_ne_zero_iff a).1 hv.ne
  have hs : signBit a = true := by
    by_contra hs
    rw [value_eq, if_neg hs, one_mul] at hv
    exact absurd (gridValue_nonneg _) (not_le.2 hv)
  exact isNaN_fsqrt_of_signBit hn hz hs

/-- Settles O58. -/
theorem specialOperands : Obligations.SpecialOperands := by
  refine ⟨fun a b => isNaN_operand, fun a => isNaN_fsqrt_of_isNaN, fun a b => isNaN_fadd_opposite_infinities,
    fun a b => isNaN_fmul_infinity_zero, fun a b => isNaN_fdiv_zeros, fun a b => isNaN_fdiv_infinities,
    fun a ha => isNaN_fsqrt_negative (isNaN_of_isFinite ha), fun a b ha hz hb => ?_, fun a b => fadd_infinity_finite,
    fun a b => fadd_equal_infinities, fun a b => isInf_fmul, fun a b ha hb => ?_, by decide, by decide, by decide,
    isNaN_fsqrt_of_signBit (by decide) (by decide) (by decide), by decide, fun a => fadd_negate,
    fun a b => signBit_fmul, fun a b => signBit_fdiv⟩
  · rw [fdiv_by_zero ha hz hb]
    exact ⟨isInf_withSign_infMag _, signBit_withSign _ infMag_lt⟩
  · rw [fdiv_infinity_finite ha hb, fdiv_finite_infinity hb ha]
    exact ⟨isInf_withSign_infMag _, isZero_withSign_zero _⟩

end Sys2Proof.Machine
end

section
/-! PROOFS. O52: every step keeps the held and the reported power factors in range (spec/41_arithmetic.md R158,
spec/43_power_and_pf.md R195 to R199). First the arithmetic: a frame that overflows nowhere has a finite real power.
Then the registers: a step leaves the power factors alone or hands one frame to PROCESS_FRAME. -/

namespace Sys2Proof.Machine

/-! ### A real power that overflows nowhere is finite -/

theorem isFinite_of_not {x : F32} (hn : isNaN x = false) (hi : isInf x = false) : isFinite x = true :=
  (isFinite_iff_not x).2 ⟨hn, hi⟩

theorem isFinite_fmul {a b : F32} (ha : isFinite a = true) (hb : isFinite b = true) (h : isInf (fmul a b) = false) :
    isFinite (fmul a b) = true := isFinite_of_not (isNaN_fmul ha hb) h

theorem isFinite_fadd {a b : F32} (ha : isFinite a = true) (hb : isFinite b = true) (h : isInf (fadd a b) = false) :
    isFinite (fadd a b) = true := isFinite_of_not (isNaN_fadd ha hb) h

/-- R171, R176: a code converts to a finite sample unless one of the two products overflows. -/
theorem isFinite_convert {p : Params} {code : Code} {cal : F32} (hk : isFinite (kLsb defaultNumerics p) = true)
    (hcal : isFinite cal = true) (hcode : isInf (fmul (u2f code.toNat) (kLsb defaultNumerics p)) = false)
    (h : isInf (convert defaultNumerics p code cal) = false) :
    isFinite (convert defaultNumerics p code cal) = true := by
  have hlt : code.toNat ≤ 2 ^ 32 := code.isLt.le.trans (by norm_num)
  exact isFinite_fmul (isFinite_fmul (isFinite_u2f hlt) hk hcode) hcal h

theorem sumScans_succ (N : Numerics) (n : Nat) (term : Nat → F32) :
    sumScans N (n + 1) term = N.fadd (sumScans N n term) (term n) := by
  simp [sumScans, List.range_succ]

/-- A sum of finite terms is finite unless a partial sum overflows. -/
theorem isFinite_sumScans {n : Nat} {term : Nat → F32} (hterm : ∀ k < n, isFinite (term k) = true)
    (hsum : ∀ m ≤ n, isInf (sumScans defaultNumerics m term) = false) :
    isFinite (sumScans defaultNumerics n term) = true := by
  induction n with
  | zero => exact (by decide : isFinite fZero = true)
  | succ n ih =>
    have hn := ih (fun k hk => hterm k (by omega)) fun m hm => hsum m (by omega)
    have hlast := hsum (n + 1) le_rfl
    rw [sumScans_succ] at hlast ⊢
    exact isFinite_fadd hn (hterm n n.lt_succ_self) hlast

/-- A mean does not overflow: a positive count converts to 1 or more. -/
theorem isFinite_fdiv_u2f {x : F32} (hx : isFinite x = true) {n : Nat} (hn : 1 ≤ n) :
    isFinite (fdiv x (u2f n)) = true := by
  cases hf : isFinite (u2f n) with
  | true =>
    refine ((roundsTo_fdiv hx hf (isZero_u2f hn)).nearest ?_).1
    have hone := one_le_value_u2f hn hf
    have hle : |value x / value (u2f n)| ≤ |value x| := by
      rw [abs_div, abs_of_pos (by linarith : 0 < value (u2f n))]
      exact div_le_self (abs_nonneg _) hone
    exact_mod_cast hle.trans_lt (abs_value_lt_overflowBound hx)
  | false =>
    have hinf : isInf (u2f n) = true := by
      by_contra hi
      rw [isFinite_of_not (isNaN_u2f n) (eq_false_of_ne_true hi)] at hf
      cases hf
    rw [fdiv_finite_infinity hx hinf]
    exact isFinite_of_isZero (isZero_withSign_zero _)

/-- A processed channel has a sample in every accepted frame (R63). -/
theorem one_le_count_of_accepted {p : Params} {c len : Nat} (hc : c < p.ctActive) (h : p.vctTotal ≤ len) :
    1 ≤ count p (p.v + c) len := by
  have hct : p.ctActive ≤ p.ct := min_le_left _ _
  have hpos : p.v + c < len := lt_of_lt_of_le (Nat.add_lt_add_left (hc.trans_le hct) _) h
  rw [count_of_lt hpos]
  exact Nat.le_add_left 1 _

/-- R190, R199: under the rule's premise the real power of every processed channel is finite. -/
theorem NoOverflow.isFinite_realPower {s : State} {F : List Code} (h : NoOverflow s F)
    (hF : s.params.vctTotal ≤ F.length) {c : Nat} (hc : c < s.params.ctActive) :
    isFinite (realPower defaultNumerics s F c) = true := by
  refine isFinite_fdiv_u2f (isFinite_sumScans (fun k hk => ?_) (h.sums c hc)) (one_le_count_of_accepted hc hF)
  obtain ⟨hvcode, hv⟩ := h.voltages c hc k hk
  obtain ⟨hicode, hi⟩ := h.currents c hc k hk
  exact isFinite_fmul (isFinite_convert h.codeStep h.voltageScale hvcode hv)
    (isFinite_convert h.codeStep (h.currentScale c hc) hicode hi) (h.products c hc k hk)

/-- R195: an apparent power above the threshold is a number other than zero. -/
theorem nonzero_number_of_pfComputed {S : F32} (h : pfComputed defaultNumerics S = true) :
    isNaN S = false ∧ isZero S = false := by
  have hgt : fgt S fPfThresh = true := h
  have hn : isNaN S = false := by
    by_contra hn
    simp [fgt, hn] at hgt
  refine ⟨hn, ?_⟩
  by_contra hz
  have hv : value fPfThresh < value S := (fgt_iff_value_lt hn (by decide)).1 hgt
  have hpos : value fZero < value fPfThresh := (orderKey_lt_iff _ _).1 (by decide)
  rw [value_of_isZero (eq_true_of_ne_false hz)] at hv
  rw [value_of_isZero (x := fZero) (by decide)] at hpos
  exact lt_asymm hv hpos

/-! ### What PROCESS_FRAME does to the power factors -/

/-- What must hold of `Q` for the accepted frame `F` to keep it of every power factor (R195 to R197). -/
structure FrameKeeps (Q : F32 → Prop) (N : Numerics) (s : State) (F : List Code) : Prop where
  /-- of a lane that is never read -/
  zero : Q fZero
  /-- of the held value that a channel reports -/
  clamp : ∀ x, Q x → Q (clamp1 N x)
  /-- of a computed power factor -/
  computed : ∀ c < s.params.ctActive, pfComputed N (apparentPower N s F c) = true →
    Q (clamp1 N (N.fdiv (realPower N s F c) (apparentPower N s F c)))

/-- Without any premise on the values: the clamp sees to it. -/
theorem frameKeeps_pfInRange (s : State) (F : List Code) : FrameKeeps pfInRange defaultNumerics s F where
  zero := .inr (by decide)
  clamp x _ := pfInRange_clamp1 x
  computed _ _ _ := pfInRange_clamp1 _

/-- With the premise of R199: no quotient that the clamp sees is a NaN. -/
theorem NoOverflow.frameKeeps_pfInUnit {s : State} {F : List Code} (h : NoOverflow s F)
    (hF : s.params.vctTotal ≤ F.length) : FrameKeeps pfInUnit defaultNumerics s F where
  zero := pfInUnit_of_magBits_le (by decide)
  clamp x hx := pfInUnit_clamp1 (isNaN_of_isFinite hx.1)
  computed c hc hS := by
    obtain ⟨hn, hz⟩ := nonzero_number_of_pfComputed hS
    exact pfInUnit_clamp1 (isNaN_fdiv (h.isFinite_realPower hF hc) hn hz)

theorem lane_of_forall {Q : F32 → Prop} {xs : List F32} (h0 : Q fZero) (h : ∀ x ∈ xs, Q x) (c : Nat) :
    Q (lane xs c) := by
  rw [lane, List.getD_eq_getElem?_getD]
  cases hx : xs[c]? with
  | none => exact h0
  | some x => exact h x (List.mem_of_getElem? hx)

/-- The held and the reported power factor of one channel after an accepted frame. -/
theorem FrameKeeps.channelResult {Q : F32 → Prop} {N : Numerics} {s : State} {F : List Code} (h : FrameKeeps Q N s F)
    (hs : ∀ x ∈ s.pfHold, Q x) (ts : Timestamp) (c : Nat) :
    Q (channelResult N s F ts c).hold ∧ Q (channelResult N s F ts c).powerFactor := by
  have hheld := lane_of_forall h.zero hs c
  unfold Machine.channelResult
  split
  · next hc =>
    simp only [pfHoldAfter, powerFactor]
    split
    · next hS => exact ⟨h.computed c hc hS, h.computed c hc hS⟩
    · exact ⟨hheld, h.clamp _ hheld⟩
  · exact ⟨hheld, hheld⟩

theorem assembleReport_powerFactor (N : Numerics) (s : State) (F : List Code) (ts : Timestamp) :
    (assembleReport N s F ts).powerFactor = (channelResults N s F ts).map (·.powerFactor) := rfl

/-- PROCESS_FRAME keeps `Q` of the held power factors; a short frame changes nothing (R226). -/
theorem forall_pfHold_processFrame {Q : F32 → Prop} {N : Numerics} {s : State} {F : List Code} (ts : Timestamp)
    (h : s.params.vctTotal ≤ F.length → FrameKeeps Q N s F) (hs : ∀ x ∈ s.pfHold, Q x) :
    ∀ x ∈ (processFrame N s F ts).state.pfHold, Q x := by
  rcases processFrame_cases N s F ts with ⟨-, ht⟩ | ⟨hF, ht⟩ <;> rw [ht]
  · exact hs
  · rw [acceptFrame_pfHold, channelResults, List.map_map]
    exact List.forall_mem_map.2 fun c _ => ((h hF).channelResult hs ts c).1

/-- PROCESS_FRAME keeps `Q` of the held and the reported power factors. -/
theorem powerFactorsAll_processFrame {Q : F32 → Prop} {N : Numerics} {s : State} {F : List Code} (ts : Timestamp)
    (h : s.params.vctTotal ≤ F.length → FrameKeeps Q N s F) (hs : PowerFactorsAll Q s) :
    PowerFactorsAll Q (processFrame N s F ts).state := by
  obtain ⟨hheld, hreported⟩ := hs
  refine ⟨forall_pfHold_processFrame ts h hheld, ?_⟩
  rcases processFrame_cases N s F ts with ⟨-, ht⟩ | ⟨hF, ht⟩ <;> rw [ht]
  · exact hreported
  · rw [acceptFrame_rslot]
    split
    · rintro e ⟨⟩
      rw [assembleReport_powerFactor, channelResults, List.map_map]
      exact List.forall_mem_map.2 fun c _ => ((h hF).channelResult hheld ts c).2
    · exact hreported

/-! ### What a step does to the power factors -/

/-- From `s` to `t` no power factor is written: the held ones stay, and the report slot stays or is emptied. -/
def PowerFactorsKept (s t : State) : Prop := t.pfHold = s.pfHold ∧ (t.rslot = s.rslot ∨ t.rslot = none)

theorem PowerFactorsKept.refl (s : State) : PowerFactorsKept s s := ⟨rfl, .inl rfl⟩

theorem PowerFactorsKept.trans {s t u : State} (h : PowerFactorsKept s t) (h' : PowerFactorsKept t u) :
    PowerFactorsKept s u := by
  obtain ⟨hhold, hslot⟩ := h
  obtain ⟨hhold', hslot'⟩ := h'
  refine ⟨hhold'.trans hhold, ?_⟩
  rcases hslot' with hslot' | hslot' <;> rw [hslot']
  · exact hslot
  · exact .inr rfl

theorem PowerFactorsKept.powerFactorsAll {Q : F32 → Prop} {s t : State} (h : PowerFactorsKept s t)
    (hs : PowerFactorsAll Q s) : PowerFactorsAll Q t := by
  obtain ⟨hhold, hslot⟩ := h
  refine ⟨hhold ▸ hs.1, ?_⟩
  rcases hslot with hslot | hslot <;> rw [hslot]
  · exact hs.2
  · nofun

/-- PROCESS_FRAME leaves the same power factors whatever the slot `fslot`, the ports and the burst hold (R229). -/
theorem processFrame_powerFactors (N : Numerics) (s : State) (F : List Code) (ts : Timestamp) (fs : Option FrameEntry)
    (pt : List CommandWord) (tn : List Turn) (bu : Option Burst) :
    PowerFactorsKept (processFrame N s F ts).state
      (processFrame N { s with fslot := fs, port := pt, turns := tn, burst := bu } F ts).state := by
  have h := processFrame_update N s F ts s.asmFill s.abuf fs s.overrunCount s.frameDropCount pt tn bu s.response
  exact ⟨(congrArg (fun o => o.state.pfHold) h :), .inl (congrArg (fun o => o.state.rslot) h :)⟩

/-- A header writes no power factor: an empty frame is shorter than any scan (R226). -/
theorem openBurst_powerFactors {s : State} (hv : 1 ≤ s.params.v) (len : Nat) (ts : Timestamp) :
    PowerFactorsKept s (openBurst s len ts) := by
  have hshort : ([] : List Code).length < s.params.vctTotal := Nat.add_pos_left hv _
  unfold openBurst
  split
  · simp only [finishFrame, processFrame_short hshort]
    exact .refl s
  · exact .refl s

/-- A data word writes power factors only as the last one of a well-formed burst (R94). -/
theorem takeDataWord_powerFactors (s : State) (b : Burst) (d : Option Code) :
    PowerFactorsKept s (takeDataWord s b d) ∨
    ∃ code, d = some code ∧ b.remaining ≤ 1 ∧ b.malformed = false ∧
      PowerFactorsKept (processFrame (numericsOf s.params) s (b.codes ++ [code]) b.ts).state (takeDataWord s b d) := by
  rcases takeDataWord_cases s b d with ⟨hrem, ht⟩ | ⟨-, ht⟩ <;> rw [ht]
  · rcases finishFrame_cases { s with burst := none }
      ⟨b.remaining - 1, b.ts, b.codes ++ d.toList, b.malformed || d.isNone⟩ with ⟨-, hf⟩ | ⟨hm, hf⟩ <;> rw [hf]
    · exact .inl (.refl s)
    · cases d with
      | none => simp at hm
      | some code =>
        refine .inr ⟨code, rfl, hrem, by simpa using hm, ?_⟩
        exact processFrame_powerFactors _ s _ b.ts s.fslot s.port s.turns none
  · exact .inl (.refl s)

theorem rejectWord_powerFactors (s : State) : PowerFactorsKept s (rejectWord s) := by
  rcases rejectWord_cases s with ⟨-, ht⟩ | ⟨b, -, ht⟩ <;> rw [ht]
  · exact .refl s
  · rcases takeDataWord_powerFactors s b none with h | ⟨code, hd, -⟩
    · exact h
    · cases hd

/-- An instruction writes power factors only as the last data word of a well-formed burst. -/
theorem exec_powerFactors {i : Instr} {s t : State} (hv : 1 ≤ s.params.v) (h : exec i s = .next t) :
    PowerFactorsKept s t ∨
    ∃ code b, i = .fdat code ∧ s.burst = some b ∧ b.remaining ≤ 1 ∧ b.malformed = false ∧
      PowerFactorsKept (processFrame (numericsOf s.params) s (b.codes ++ [code]) b.ts).state t := by
  cases i with
  | fdat code =>
    rcases execFdat_next_cases h with ⟨-, rfl⟩ | ⟨b, hb, rfl⟩
    · exact .inl (.refl s)
    · rcases takeDataWord_powerFactors s b (some code) with hkept | ⟨code', hd, hrem, hm, hf⟩
      · exact .inl hkept
      · obtain rfl := Option.some.inj hd
        exact .inr ⟨code, b, rfl, hb, hrem, hm, hf⟩
  | popr =>
    rcases execPopr_next_cases h with ⟨-, rfl⟩ | ⟨e, -, rfl⟩
    · exact .inl (.refl s)
    · exact .inl ⟨rfl, .inr rfl⟩
  | frame len ts => obtain rfl := next_inj.1 h; exact .inl (openBurst_powerFactors hv _ ts)
  | push code ts => rcases execPush_next_cases h with ⟨-, ⟨-, rfl⟩ | ⟨-, rfl⟩⟩ <;> exact .inl (.refl s)
  | setv ch scale => rcases execSetv_next_cases h with ⟨-, rfl⟩ | ⟨-, rfl⟩ <;> exact .inl (.refl s)
  | seti ch scale => rcases execSeti_next_cases h with ⟨-, rfl⟩ | ⟨-, rfl⟩ <;> exact .inl (.refl s)
  | nop | rste | gete | ovrn | diag => obtain rfl := next_inj.1 h; exact .inl (.refl s)

theorem stepFrame_meter {s : State} {e : FrameEntry} (ht : nextTurn s = .meter) (he : s.fslot = some e) :
    stepFrame s = some e.frame := by
  simp [stepFrame, ht, he]

theorem stepFrame_lastDataWord {s : State} {w : CommandWord} {rest : List CommandWord} {b : Burst} {code : Code}
    (ht : nextTurn s = .command) (hp : s.port = w :: rest) (hb : s.burst = some b)
    (hd : decodeWord s w = .ok (.fdat code)) (hrem : b.remaining ≤ 1) (hm : b.malformed = false) :
    stepFrame s = some (b.codes ++ [code]) := by
  have hin : decodeIn true s.params w = .ok (.fdat code) := by
    rw [decodeWord, hb] at hd
    exact hd
  simp [stepFrame, ht, hp, hb, hin, hrem, hm]

/-- A step either writes no power factor or leaves those of PROCESS_FRAME on the frame of the step. -/
theorem step_powerFactors {s t : State} (h : step s = .next t) :
    PowerFactorsKept s t ∨
    ∃ F ts, stepFrame s = some F ∧ PowerFactorsKept (processFrame (numericsOf s.params) s F ts).state t := by
  obtain ⟨hlegal, ⟨hturn, rfl⟩ | ⟨-, -, rfl⟩ | ⟨hturn, w, rest, hport, ⟨i, hd, he⟩ | ⟨e, -, rfl⟩⟩⟩ :=
    step_next_cases h
  · cases hs : s.fslot with
    | none => rw [meterTurn_idle (s := useTurn s) hs]; exact .inl (.refl s)
    | some e =>
      refine .inr ⟨e.frame, e.ts, stepFrame_meter hturn hs, ?_⟩
      rw [meterTurn_enabled (s := useTurn s) hs]
      exact processFrame_powerFactors _ s _ _ none s.port _ s.burst
  · exact .inl (.refl s)
  · rcases exec_powerFactors (s := consumeWord (useTurn s)) (paramsLegal_v_pos hlegal) he with
      hkept | ⟨code, b, rfl, hb, hrem, hm, hf⟩
    · exact .inl hkept
    · refine .inr ⟨_, b.ts, stepFrame_lastDataWord hturn hport hb hd hrem hm, ?_⟩
      exact PowerFactorsKept.trans (processFrame_powerFactors _ s _ _ s.fslot _ _ s.burst) hf
  · exact .inl (rejectWord_powerFactors (consumeWord (useTurn s)))

/-! ### The obligation -/

/-- What the frame of a step, if accepted, keeps of every power factor, the step keeps. -/
theorem step_keeps_powerFactorsAll {Q : F32 → Prop} {s t : State} (h : step s = .next t)
    (hQ : ∀ F, stepFrame s = some F → s.params.vctTotal ≤ F.length → FrameKeeps Q (numericsOf s.params) s F)
    (hs : PowerFactorsAll Q s) : PowerFactorsAll Q t := by
  rcases step_powerFactors h with hkept | ⟨F, ts, hF, hkept⟩
  · exact hkept.powerFactorsAll hs
  · exact hkept.powerFactorsAll (powerFactorsAll_processFrame ts (hQ F hF) hs)

theorem step_keeps_holdsInRange {s t : State} (hN : numericsOf s.params = defaultNumerics) (h : step s = .next t)
    (hs : HoldsInRange s) : HoldsInRange t := by
  rcases step_powerFactors h with ⟨hheld, -⟩ | ⟨F, ts, -, hheld, -⟩
  · rw [HoldsInRange, hheld]; exact hs
  · rw [HoldsInRange, hheld, hN]
    exact forall_pfHold_processFrame ts (fun _ => frameKeeps_pfInRange s F) hs

/-- Settles O52: the clamp gives the range, and the premise of R199 a quotient that is a number. -/
theorem stepKeepsPowerFactorsInRange : Obligations.StepKeepsPowerFactorsInRange := by
  intro s t hn h
  have hN := numericsOf_ieee754 hn
  refine ⟨step_keeps_holdsInRange hN h, step_keeps_powerFactorsAll h fun F _ _ => ?_, fun hover =>
    step_keeps_powerFactorsAll h fun F hF hlen => ?_⟩ <;> rw [hN]
  · exact frameKeeps_pfInRange s F
  · exact (hover F hF hlen).frameKeeps_pfInUnit hlen

end Sys2Proof.Machine
end

section
/-! PROOFS. O22, O29, O33: the voltage RMS as a running accumulation over the scans, what an unprocessed current channel
reports, and the sign of an RMS value and of an apparent power (spec/42_rms_accumulator.md R173 to R180,
spec/43_power_and_pf.md R192, R193). -/

namespace Sys2Proof.Machine

/-! ### The loop of R174 -/

/-- A frame holds at most as many samples of a channel as it has words. -/
theorem count_le_length {p : Params} (hp : 0 < p.vctTotal) (pos len : Nat) : count p pos len ≤ len := by
  by_contra h
  have hlast : position p pos len < len := (lt_count_iff hp pos len len).1 (not_le.1 h)
  have hstride : len ≤ len * p.vctTotal := Nat.le_mul_of_pos_right len hp
  unfold position at hlast
  omega

/-- One turn of the loop: the square of scan `k`'s sample is added, and the sample is counted. -/
theorem vrmsLoop_of_lt_count {N : Numerics} {s : State} {F : List Code} {v k : Nat} (hp : 0 < s.params.vctTotal)
    (hk : k < count s.params v F.length) (fuel : Nat) (ssq : F32) (n : Nat) :
    vrmsLoop N s F v (fuel + 1) k ssq n =
      vrmsLoop N s F v fuel (k + 1) (N.fadd ssq (N.fmul (voltageAt N s F v k) (voltageAt N s F v k))) (n + 1) :=
  if_pos ((lt_count_iff hp v F.length k).1 hk)

/-- The loop ends when no sample of the channel is left, with fuel left or without. -/
theorem vrmsLoop_of_count_le {N : Numerics} {s : State} {F : List Code} {v k : Nat} (hp : 0 < s.params.vctTotal)
    (hk : count s.params v F.length ≤ k) (fuel : Nat) (ssq : F32) (n : Nat) :
    vrmsLoop N s F v fuel k ssq n = (ssq, n) := by
  cases fuel with
  | zero => rfl
  | succ fuel => exact if_neg ((lt_count_iff hp v F.length k).not.1 (not_lt.2 hk))

/-- The loop's invariant: entered at scan `k` with the sum and the number of the scans before `k`, and with enough fuel,
the loop leaves with the sum and the number of all scans. -/
theorem vrmsLoop_from {N : Numerics} {s : State} {F : List Code} {v : Nat} (hp : 0 < s.params.vctTotal) (fuel k : Nat)
    (hk : k ≤ count s.params v F.length) (hfuel : count s.params v F.length ≤ k + fuel) :
    let squares := fun j => N.fmul (voltageAt N s F v j) (voltageAt N s F v j)
    vrmsLoop N s F v fuel k (sumScans N k squares) k =
      (sumScans N (count s.params v F.length) squares, count s.params v F.length) := by
  intro squares
  induction fuel generalizing k with
  | zero =>
    obtain rfl : k = count s.params v F.length := le_antisymm hk hfuel
    exact vrmsLoop_of_count_le hp le_rfl _ _ _
  | succ fuel ih =>
    rcases hk.eq_or_lt with rfl | hmore
    · exact vrmsLoop_of_count_le hp le_rfl _ _ _
    · rw [vrmsLoop_of_lt_count hp hmore, ← sumScans_succ N k squares]
      exact ih (k + 1) hmore (by omega)

/-- Settles O22: the loop's invariant from scan 0, the frame's length being fuel enough. -/
theorem voltageRmsIsTheLoopOfR174 : Obligations.VoltageRmsIsTheLoopOfR174 := by
  intro N s F v hp r
  have hlen : count s.params v F.length ≤ F.length := count_le_length hp v F.length
  have hr : r = _ := vrmsLoop_from hp (F.length + 1) 0 (Nat.zero_le _) (by omega)
  rw [hr]
  rfl

/-! ### Unprocessed channels -/

/-- A field of channel `c`'s result stands in lane `c` of the list of that field. -/
theorem lane_channelResults (N : Numerics) (s : State) (F : List Code) (ts : Timestamp) (field : ChannelResult → F32)
    {c : Nat} (hc : c < s.params.ct) :
    lane ((channelResults N s F ts).map field) c = field (channelResult N s F ts c) := by
  rw [channelResults, List.map_map, lane_map_range _ hc]
  rfl

/-- What R178 gives an unprocessed channel: zeros, and the lanes as they were before the frame. -/
theorem channelResult_unprocessed {N : Numerics} {s : State} {F : List Code} {ts : Timestamp} {c : Nat}
    (h : s.params.ctActive ≤ c) :
    channelResult N s F ts c = ⟨fZero, fZero, fZero, lane s.pfHold c, lane s.pfHold c, lane s.energy c⟩ :=
  if_neg (not_lt.2 h)

/-- Settles O29: in the report each field comes from `channelResult_unprocessed`, in the state after the frame from the
lemmas about the lanes that `acceptFrame` leaves alone. -/
theorem unprocessedChannelsReportZero : Obligations.UnprocessedChannelsReportZero := by
  intro N s F ts c hidle hc hF
  have hres : channelResult N s F ts c = _ := channelResult_unprocessed hidle
  have hreport (field : ChannelResult → F32) :
      lane ((channelResults N s F ts).map field) c = field _ :=
    (lane_channelResults N s F ts field hc).trans (congrArg field hres)
  refine ⟨hreport (·.irms), hreport (·.realPower), hreport (·.apparentPower), hreport (·.powerFactor),
    hreport (·.energy), ?_, ?_⟩ <;> rw [processFrame_accepted hF]
  · exact lane_acceptFrame_pfHold_unprocessed hidle hc
  · exact lane_acceptFrame_energy_unprocessed hidle hc

/-! ### The sign of an RMS value and of an apparent power -/

/-- A NaN, or a pattern with sign `+`: what R180 and R193 say of a value. -/
def NanOrPlus (x : F32) : Prop := isNaN x = true ∨ signBit x = false

/-- To show it, only a result that is a number has to be looked at. -/
theorem nanOrPlus_of_number {x : F32} (h : isNaN x = false → signBit x = false) : NanOrPlus x := by
  cases hx : isNaN x with
  | true => exact .inl hx
  | false => exact .inr (h hx)

/-- An operation that passes a NaN on need only be looked at on operands of sign `+`. -/
theorem NanOrPlus.binary {op : F32 → F32 → F32} {a b : F32} (ha : NanOrPlus a) (hb : NanOrPlus b)
    (hnan : isNaN a = true ∨ isNaN b = true → isNaN (op a b) = true)
    (hplus : signBit a = false → signBit b = false → isNaN (op a b) = false → signBit (op a b) = false) :
    NanOrPlus (op a b) := by
  rcases ha with ha | ha
  · exact .inl (hnan (.inl ha))
  · rcases hb with hb | hb
    · exact .inl (hnan (.inr hb))
    · exact nanOrPlus_of_number (hplus ha hb)

/-- R153: a square has sign `+`, because signs multiply. -/
theorem nanOrPlus_fmul_self (x : F32) : NanOrPlus (fmul x x) :=
  nanOrPlus_of_number fun hn => by rw [signBit_fmul hn, bne_self_eq_false]

theorem NanOrPlus.fmul {a b : F32} (ha : NanOrPlus a) (hb : NanOrPlus b) : NanOrPlus (fmul a b) :=
  ha.binary hb (fun h => (isNaN_operand h).2.1) fun hsa hsb hn => by rw [signBit_fmul hn, hsa, hsb]; rfl

theorem NanOrPlus.fdiv {a b : F32} (ha : NanOrPlus a) (hb : NanOrPlus b) : NanOrPlus (fdiv a b) :=
  ha.binary hb (fun h => (isNaN_operand h).2.2) fun hsa hsb hn => by rw [signBit_fdiv hn, hsa, hsb]; rfl

theorem alignedInt_nonneg {x : F32} (h : signBit x = false) (e : Int) : 0 ≤ alignedInt x e := by
  simp [alignedInt, h]

/-- R153: the sign of a sum whose operands both have sign `+`, the zero sum included. -/
theorem signBit_fadd_of_plus {a b : F32} (ha : signBit a = false) (hb : signBit b = false)
    (hn : isNaN (fadd a b) = false) : signBit (fadd a b) = false := by
  have hsum (e : Int) : 0 ≤ alignedInt a e + alignedInt b e :=
    add_nonneg (alignedInt_nonneg ha e) (alignedInt_nonneg hb e)
  unfold fadd at hn ⊢
  extract_lets at hn ⊢
  split_ifs at hn ⊢
  · simp at hn
  · simp at hn
  · exact ha
  · exact hb
  · rw [signBit_withSign _ (by decide), ha, hb]; rfl
  · rw [signBit_withSign _ (roundMag_lt _ _ _)]; exact decide_eq_false (not_lt.2 (hsum _))

theorem NanOrPlus.fadd {a b : F32} (ha : NanOrPlus a) (hb : NanOrPlus b) : NanOrPlus (fadd a b) :=
  ha.binary hb (fun h => (isNaN_operand h).1) signBit_fadd_of_plus

/-- A root of an operand with sign `+` has sign `+`; `fsqrt` returns `-0.0` for `-0.0` alone (R153). -/
theorem NanOrPlus.fsqrt {a : F32} (ha : NanOrPlus a) : NanOrPlus (fsqrt a) := by
  rcases ha with ha | ha
  · exact .inl (isNaN_fsqrt_of_isNaN ha)
  · refine nanOrPlus_of_number fun hn => ?_
    unfold Machine.fsqrt at hn ⊢
    extract_lets at hn ⊢
    split_ifs at hn ⊢
    · simp at hn
    · exact ha
    · simp at hn
    · exact ha
    · exact signBit_withSign _ (roundMag_lt _ _ _)

theorem nanOrPlus_u2f (n : Nat) : NanOrPlus (u2f n) := .inr (signBit_u2f n)

/-- The sum starts at `+0.0`, so a term of sign `+` never meets a `-0.0`. -/
theorem nanOrPlus_sumScans {n : Nat} {term : Nat → F32} (h : ∀ k < n, NanOrPlus (term k)) :
    NanOrPlus (sumScans defaultNumerics n term) := by
  induction n with
  | zero => exact .inr (by decide : signBit fZero = false)
  | succ n ih =>
    rw [sumScans_succ]
    exact (ih fun k hk => h k (hk.trans n.lt_succ_self)).fadd (h n n.lt_succ_self)

/-- R180, whatever the samples: a root of a mean of squares. -/
theorem nanOrPlus_rms (n : Nat) (x : Nat → F32) : NanOrPlus (rms defaultNumerics n x) :=
  ((nanOrPlus_sumScans fun k _ => nanOrPlus_fmul_self (x k)).fdiv (nanOrPlus_u2f n)).fsqrt

/-- Settles O33: both RMS values by R180, the apparent power as their product. -/
theorem rmsAndApparentPowerNeverNegative : Obligations.RmsAndApparentPowerNeverNegative := by
  intro s F v c
  have hv (v : Nat) : NanOrPlus (vrms defaultNumerics s F v) := nanOrPlus_rms _ _
  have hi : NanOrPlus (irms defaultNumerics s F c) := nanOrPlus_rms _ _
  exact ⟨hv v, hi, (hv s.params.ref).fmul hi⟩

end Sys2Proof.Machine
end

section
/-! PROOFS. O23, O30, O32: the current RMS and the real power as one running accumulation over the scans, and what an
accepted frame reports and holds of a processed current channel (spec/43_power_and_pf.md R190 to R197). -/

namespace Sys2Proof.Machine

/-! ### The loop of R190 -/

/-- The square of channel `c`'s current sample at scan `k`: what R190 adds to `si`. -/
def currentSquareAt (N : Numerics) (s : State) (F : List Code) (c k : Nat) : F32 :=
  N.fmul (currentAt N s F c k) (currentAt N s F c k)

/-- The instantaneous power of channel `c` at scan `k`, with the reference voltage of the same scan: what R190 adds to
`sp`. -/
def powerAt (N : Numerics) (s : State) (F : List Code) (c k : Nat) : F32 :=
  N.fmul (voltageAt N s F s.params.ref k) (currentAt N s F c k)

/-- The number of current samples of channel `c`, which are the pairs of R190. -/
def pairCount (s : State) (F : List Code) (c : Nat) : Nat := count s.params (s.params.v + c) F.length

theorem irms_eq (N : Numerics) (s : State) (F : List Code) (c : Nat) :
    irms N s F c =
      N.fsqrt (N.fdiv (sumScans N (pairCount s F c) (currentSquareAt N s F c)) (N.u2f (pairCount s F c))) := rfl

theorem realPower_eq (N : Numerics) (s : State) (F : List Code) (c : Nat) :
    realPower N s F c = N.fdiv (sumScans N (pairCount s F c) (powerAt N s F c)) (N.u2f (pairCount s F c)) := rfl

/-- One turn of the loop: both products of scan `k` are added, and the pair is counted. -/
theorem ipowLoop_of_lt_count {N : Numerics} {s : State} {F : List Code} {c k : Nat} (hp : 0 < s.params.vctTotal)
    (hk : k < pairCount s F c) (fuel : Nat) (si sp : F32) (n : Nat) :
    ipowLoop N s F c (fuel + 1) k si sp n =
      ipowLoop N s F c fuel (k + 1) (N.fadd si (currentSquareAt N s F c k)) (N.fadd sp (powerAt N s F c k)) (n + 1) :=
  if_pos ((lt_count_iff hp (s.params.v + c) F.length k).1 hk)

/-- The loop ends when no current sample of the channel is left, with fuel left or without. -/
theorem ipowLoop_of_count_le {N : Numerics} {s : State} {F : List Code} {c k : Nat} (hp : 0 < s.params.vctTotal)
    (hk : pairCount s F c ≤ k) (fuel : Nat) (si sp : F32) (n : Nat) :
    ipowLoop N s F c fuel k si sp n = (si, sp, n) := by
  cases fuel with
  | zero => rfl
  | succ fuel => exact if_neg ((lt_count_iff hp (s.params.v + c) F.length k).not.1 (not_lt.2 hk))

/-- The joint loop's invariant: entered at scan `k` with both sums over the scans before `k`, and with enough fuel, it
leaves with both sums over all pairs. -/
theorem ipowLoop_from {N : Numerics} {s : State} {F : List Code} {c : Nat} (hp : 0 < s.params.vctTotal) (fuel k : Nat)
    (hk : k ≤ pairCount s F c) (hfuel : pairCount s F c ≤ k + fuel) :
    ipowLoop N s F c fuel k (sumScans N k (currentSquareAt N s F c)) (sumScans N k (powerAt N s F c)) k =
      (sumScans N (pairCount s F c) (currentSquareAt N s F c), sumScans N (pairCount s F c) (powerAt N s F c),
        pairCount s F c) := by
  induction fuel generalizing k with
  | zero =>
    obtain rfl : k = pairCount s F c := le_antisymm hk hfuel
    exact ipowLoop_of_count_le hp le_rfl _ _ _ _
  | succ fuel ih =>
    rcases hk.eq_or_lt with rfl | hmore
    · exact ipowLoop_of_count_le hp le_rfl _ _ _ _
    · rw [ipowLoop_of_lt_count hp hmore, ← sumScans_succ, ← sumScans_succ]
      exact ih (k + 1) hmore (by omega)

/-- Settles O23: the loop's invariant from scan 0, the frame's length being fuel enough. -/
theorem powerIsTheLoopOfR190 : Obligations.PowerIsTheLoopOfR190 := by
  intro N s F c hp r
  have hlen : pairCount s F c ≤ F.length := count_le_length hp _ _
  have hr : r = _ := ipowLoop_from hp (F.length + 1) 0 (Nat.zero_le _) (by omega)
  rw [hr]
  exact ⟨irms_eq N s F c, realPower_eq N s F c⟩

/-! ### Processed channels -/

/-- One turn of R228's loop for a processed channel, stage by stage: IPOW, the apparent power, PF and ENERGY. -/
def processedResult (N : Numerics) (s : State) (F : List Code) (ts : Timestamp) (c : Nat) : ChannelResult where
  irms := irms N s F c
  realPower := realPower N s F c
  apparentPower := apparentPower N s F c
  powerFactor := powerFactor N (lane s.pfHold c) (realPower N s F c) (apparentPower N s F c)
  hold := pfHoldAfter N (lane s.pfHold c) (realPower N s F c) (apparentPower N s F c)
  energy := energyAfter N (elapsed N s ts) (lane s.energy c) (realPower N s F c)

section
variable {N : Numerics} {s : State} {F : List Code} {ts : Timestamp} {c : Nat}

theorem channelResult_processed (h : c < s.params.ctActive) :
    channelResult N s F ts c = processedResult N s F ts c :=
  if_pos h

/-- A field of a processed channel's result stands in lane `c` of the list of that field. -/
theorem lane_channelResults_processed (h : c < s.params.ctActive) (field : ChannelResult → F32) :
    lane ((channelResults N s F ts).map field) c = field (processedResult N s F ts c) := by
  have hct : c < s.params.ct := h.trans_le (min_le_left _ _)
  rw [lane_channelResults N s F ts field hct, channelResult_processed h]

theorem lane_assembleReport_voltageRms {v : Nat} (h : v < s.params.v) :
    lane (assembleReport N s F ts).voltageRms v = vrms N s F v :=
  lane_map_range _ h

theorem lane_assembleReport_currentRms (h : c < s.params.ctActive) :
    lane (assembleReport N s F ts).currentRms c = irms N s F c :=
  lane_channelResults_processed h (·.irms)

theorem lane_assembleReport_apparentPower (h : c < s.params.ctActive) :
    lane (assembleReport N s F ts).apparentPower c = apparentPower N s F c :=
  lane_channelResults_processed h (·.apparentPower)

theorem lane_assembleReport_powerFactor (h : c < s.params.ctActive) :
    lane (assembleReport N s F ts).powerFactor c =
      powerFactor N (lane s.pfHold c) (realPower N s F c) (apparentPower N s F c) :=
  lane_channelResults_processed h (·.powerFactor)

theorem lane_acceptFrame_pfHold (h : c < s.params.ctActive) :
    lane (acceptFrame N s F ts).state.pfHold c =
      pfHoldAfter N (lane s.pfHold c) (realPower N s F c) (apparentPower N s F c) := by
  rw [acceptFrame_pfHold]
  exact lane_channelResults_processed h (·.hold)

end

/-! ### The power factor -/

/-- R196: the clamped quotient is reported. -/
theorem powerFactor_computed {N : Numerics} {S : F32} (h : N.fgt S fPfThresh = true) (hold P : F32) :
    powerFactor N hold P S = clamp1 N (N.fdiv P S) := if_pos h

/-- R196: the clamped quotient is held. -/
theorem pfHoldAfter_computed {N : Numerics} {S : F32} (h : N.fgt S fPfThresh = true) (hold P : F32) :
    pfHoldAfter N hold P S = clamp1 N (N.fdiv P S) := if_pos h

/-- R197: the held value is reported, clamped. -/
theorem powerFactor_held {N : Numerics} {S : F32} (h : N.fgt S fPfThresh = false) (hold P : F32) :
    powerFactor N hold P S = clamp1 N hold := if_neg (Bool.eq_false_iff.1 h)

/-- R197: the held value is not written. -/
theorem pfHoldAfter_held {N : Numerics} {S : F32} (h : N.fgt S fPfThresh = false) (hold P : F32) :
    pfHoldAfter N hold P S = hold := if_neg (Bool.eq_false_iff.1 h)

/-- Settles O30: the report and the register hold what PF returns and leaves, one lemma for each branch. -/
theorem powerFactorBranches : Obligations.PowerFactorBranches := by
  intro N s F ts c hc hF o r S q
  have hreported : lane r.powerFactor c = powerFactor N (lane s.pfHold c) (realPower N s F c) S :=
    lane_assembleReport_powerFactor hc
  have hheld : lane o.state.pfHold c = pfHoldAfter N (lane s.pfHold c) (realPower N s F c) S := by
    rw [show o = _ from processFrame_accepted hF]
    exact lane_acceptFrame_pfHold hc
  rw [hreported, hheld]
  exact ⟨fun h => ⟨powerFactor_computed h _ _, pfHoldAfter_computed h _ _⟩,
    fun h => ⟨powerFactor_held h _ _, pfHoldAfter_held h _ _⟩⟩

/-! ### The apparent power -/

/-- R192: in the report of a frame the apparent power is the product of the two RMS values beside it. -/
theorem assembleReport_apparentPower_eq_product (N : Numerics) {s : State} (F : List Code) (ts : Timestamp) {c : Nat}
    (href : s.params.ref < s.params.v) (hc : c < s.params.ctActive) :
    let r := assembleReport N s F ts
    lane r.apparentPower c = N.fmul (lane r.voltageRms s.params.ref) (lane r.currentRms c) := by
  intro r
  rw [lane_assembleReport_apparentPower hc, lane_assembleReport_voltageRms href, lane_assembleReport_currentRms hc]
  rfl

/-- R234: the flag `rpt` of an accepted frame says that its report is in the slot. -/
theorem acceptFrame_rslot_of_rpt {N : Numerics} {s : State} {F : List Code} {ts : Timestamp}
    (h : (acceptFrame N s F ts).flags.rpt = true) :
    (acceptFrame N s F ts).state.rslot = some ⟨assembleReport N s F ts, ts⟩ := by
  rw [acceptFrame_rslot]
  exact if_pos h

/-- Settles O32: the emitted report is the frame's own, and in that one the product is R192's. -/
theorem apparentPowerIsReportedProduct : Obligations.ApparentPowerIsReportedProduct := by
  intro N s F ts c href hc hF hrpt
  rw [processFrame_accepted hF] at hrpt ⊢
  exact ⟨assembleReport N s F ts, acceptFrame_rslot_of_rpt hrpt, assembleReport_apparentPower_eq_product N F ts href hc⟩

end Sys2Proof.Machine
end

section
/-! PROOFS. O26, O27, O28: the energy of an accepted frame in the three outcomes of ELAPSED, and what a frame's
timestamp does not reach (spec/44_energy_integrator.md R210 to R213, spec/45_process_frame.md R233). -/

namespace Sys2Proof.Machine

/-! ### The outcomes of ELAPSED -/

/-- The quotient that R210 forms when the timestamp advances. -/
def elapsedHours (N : Numerics) (last ts : Timestamp) : F32 := N.fdiv (N.i2f (delta ts last)) fMsPerHour

section
variable {N : Numerics} {s : State} {ts : Timestamp}

/-- R211: without a predecessor no difference is formed. -/
theorem elapsed_first (h : s.tsValid = false) : elapsed N s ts = .first := by
  simp [elapsed, h]

/-- R212: an equal timestamp does not advance either. -/
theorem elapsed_nonMonotonic (h : s.tsValid = true) (hts : ts.toNat ≤ s.lastTimestampMs.toNat) :
    elapsed N s ts = .nonMonotonic := by
  have hdelta : delta ts s.lastTimestampMs ≤ 0 := by unfold delta; omega
  simp [elapsed, h, hdelta]

theorem elapsed_advancing (h : s.tsValid = true) (hts : s.lastTimestampMs.toNat < ts.toNat) :
    elapsed N s ts = .hours (elapsedHours N s.lastTimestampMs ts) := by
  have hdelta : ¬ delta ts s.lastTimestampMs ≤ 0 := by unfold delta; omega
  simp [elapsed, h, hdelta, elapsedHours]

end

/-! ### The code, the flag and the count -/

section
variable {N : Numerics} {s : State} {F : List Code} {ts : Timestamp}

/-- R211, R210: no error is raised on the first frame, nor when the timestamp advances. -/
theorem acceptFrame_of_monotonic (h : (elapsed N s ts).isNonMonotonic = false) :
    (acceptFrame N s F ts).code = .ok ∧ (acceptFrame N s F ts).flags.cnm = false ∧
      (acceptFrame N s F ts).state.nmCount = s.nmCount := by
  rw [acceptFrame_nmCount]
  simp [acceptFrame, h]

/-- R212: the frame is answered with `CLOCK_NON_MONOTONIC` and `CNM`, and counted. -/
theorem acceptFrame_of_nonMonotonic (h : (elapsed N s ts).isNonMonotonic = true) :
    (acceptFrame N s F ts).code = .clockNonMonotonic ∧ (acceptFrame N s F ts).flags.cnm = true ∧
      (acceptFrame N s F ts).state.nmCount = satIncr s.nmCount := by
  rw [acceptFrame_nmCount]
  simp [acceptFrame, h]

/-! ### The accumulators -/

theorem map_range_lane (xs : List F32) : (List.range xs.length).map (lane xs) = xs := by
  apply List.ext_getElem <;> simp +contextual [lane]

/-- R210: only when ELAPSED returns hours is anything added. -/
theorem energyAfter_skipped {el : Elapsed} (h : ∀ eh, el ≠ .hours eh) (energy P : F32) :
    energyAfter N el energy P = energy := by
  cases el with
  | first => rfl
  | nonMonotonic => rfl
  | hours eh => exact absurd rfl (h eh)

theorem channelResult_energy_skipped (h : ∀ eh, elapsed N s ts ≠ .hours eh) (c : Nat) :
    (channelResult N s F ts c).energy = lane s.energy c := by
  rcases Nat.lt_or_ge c s.params.ctActive with hc | hc
  · rw [channelResult_processed hc]
    exact energyAfter_skipped h _ _
  · rw [channelResult_unprocessed hc]

/-- R211, R212: a frame for which ELAPSED says to skip changes no accumulator. -/
theorem acceptFrame_energy_skipped (hlen : s.energy.length = s.params.ct) (h : ∀ eh, elapsed N s ts ≠ .hours eh) :
    (acceptFrame N s F ts).state.energy = s.energy := by
  rw [acceptFrame_energy, channelResults, List.map_map, ← hlen]
  calc (List.range s.energy.length).map _
    _ = (List.range s.energy.length).map (lane s.energy) :=
        List.map_congr_left fun c _ => channelResult_energy_skipped h c
    _ = s.energy := map_range_lane s.energy

/-- ENERGY of R213 on a processed channel's accumulator. -/
theorem lane_acceptFrame_energy {c : Nat} (h : c < s.params.ctActive) :
    lane (acceptFrame N s F ts).state.energy c =
      energyAfter N (elapsed N s ts) (lane s.energy c) (realPower N s F c) := by
  rw [acceptFrame_energy]
  exact lane_channelResults_processed h (·.energy)

/-- R213: hours above zero are added. -/
theorem energyAfter_added {eh : F32} (h : N.fgt eh fZero = true) (energy P : F32) :
    energyAfter N (.hours eh) energy P = N.fadd energy (N.fmul P eh) := if_pos h

/-- R213: otherwise the channel's update is skipped. -/
theorem energyAfter_not_added {eh : F32} (h : N.fgt eh fZero = false) (energy P : F32) :
    energyAfter N (.hours eh) energy P = energy := if_neg (Bool.eq_false_iff.1 h)

end

/-! ### What the timestamp does not reach -/

/-- Of a channel's result only the accumulator depends on the timestamp. -/
theorem channelResult_timestamp (N : Numerics) (s : State) (F : List Code) (ts ts' : Timestamp) (c : Nat) :
    channelResult N s F ts c =
      { channelResult N s F ts' c with energy := (channelResult N s F ts c).energy } := by
  rcases Nat.lt_or_ge c s.params.ctActive with hc | hc
  · rw [channelResult_processed hc, channelResult_processed hc]; rfl
  · rw [channelResult_unprocessed hc, channelResult_unprocessed hc]

theorem map_channelResults_timestamp (N : Numerics) (s : State) (F : List Code) (ts ts' : Timestamp)
    {field : ChannelResult → F32} (hfield : ∀ r e, field { r with energy := e } = field r) :
    (channelResults N s F ts).map field = (channelResults N s F ts').map field := by
  rw [channelResults, channelResults, List.map_map, List.map_map]
  refine List.map_congr_left fun c _ => ?_
  rw [Function.comp, Function.comp, channelResult_timestamp N s F ts ts', hfield]

/-- R212: the report but for its accumulators. -/
theorem assembleReport_timestamp (N : Numerics) (s : State) (F : List Code) (ts ts' : Timestamp) :
    { assembleReport N s F ts with energyWh := [] } = { assembleReport N s F ts' with energyWh := [] } := by
  have hfield {field : ChannelResult → F32} (h : ∀ r e, field { r with energy := e } = field r) :=
    map_channelResults_timestamp N s F ts ts' h
  simp only [assembleReport, Report.mk.injEq, true_and, and_true]
  exact ⟨hfield fun _ _ => rfl, hfield fun _ _ => rfl, hfield fun _ _ => rfl, hfield fun _ _ => rfl⟩

/-- R212: the held power factors. -/
theorem acceptFrame_pfHold_timestamp (N : Numerics) (s : State) (F : List Code) (ts ts' : Timestamp) :
    (acceptFrame N s F ts).state.pfHold = (acceptFrame N s F ts').state.pfHold := by
  rw [acceptFrame_pfHold, acceptFrame_pfHold]
  exact map_channelResults_timestamp N s F ts ts' fun _ _ => rfl

/-! ### The elapsed hours of the default record -/

/-- Rounding keeps a number in range on or above each finite value that it is on or above. -/
theorem RoundsTo.value_le {x : ℝ} {r c : F32} (h : RoundsTo x r) (hx : |x| < overflowBound)
    (hc : isFinite c = true) (hle : (value c : ℝ) ≤ x) : value c ≤ value r := by
  have hnear := (h.nearest hx).2 c hc
  rw [abs_of_nonneg (sub_nonneg.2 hle)] at hnear
  have : (value c : ℝ) ≤ value r := by linarith [le_abs_self (x - (value r : ℝ))]
  exact_mod_cast this

/-- R8: 3 600 000, exactly. -/
theorem value_fMsPerHour : value fMsPerHour = 3600000 := by
  have hfields : signBit fMsPerHour = false ∧ significand fMsPerHour = 14400000 ∧ scaleExp fMsPerHour = -2 := by decide
  obtain ⟨hsign, hsig, hexp⟩ := hfields
  rw [value, hsign, hsig, hexp]
  norm_num

/-- The pattern of `2^-22`, a finite value below one millisecond in hours. -/
def fBelowMs : F32 := 0x34800000#32

theorem value_fBelowMs : value fBelowMs = 2 ^ (-22 : ℤ) := by
  have hfields : signBit fBelowMs = false ∧ significand fBelowMs = 2 ^ 23 ∧ scaleExp fBelowMs = -45 := by decide
  obtain ⟨hsign, hsig, hexp⟩ := hfields
  rw [value, hsign, hsig, hexp]
  norm_num

/-- A number of milliseconds from 1 on is divided into positive hours: the quotient, at least `1 / 3 600 000`, is not
rounded below `2^-22`. -/
theorem value_fdiv_fMsPerHour_pos {a : F32} (ha : isFinite a = true) (hone : 1 ≤ value a) :
    isFinite (fdiv a fMsPerHour) = true ∧ 0 < value (fdiv a fMsPerHour) := by
  have hr : RoundsTo ((value a / value fMsPerHour : ℚ) : ℝ) (fdiv a fMsPerHour) :=
    roundsTo_fdiv ha (by decide) (by decide)
  rw [value_fMsPerHour] at hr
  have hmax : value a < overflowBound := (le_abs_self _).trans_lt (abs_value_lt_overflowBound ha)
  have hrange : |value a / 3600000| < overflowBound := by
    rw [abs_of_nonneg (by linarith)]
    linarith
  have hrangeReal : |((value a / 3600000 : ℚ) : ℝ)| < overflowBound := by exact_mod_cast hrange
  have hbelow : value fBelowMs ≤ value a / 3600000 := by
    rw [value_fBelowMs]
    norm_num
    linarith
  have hle := hr.value_le hrangeReal (by decide : isFinite fBelowMs = true) (by exact_mod_cast hbelow)
  have hpos : 0 < value fBelowMs := by rw [value_fBelowMs]; positivity
  exact ⟨(hr.nearest hrangeReal).1, hpos.trans_le hle⟩

/-- R213: in the default record the elapsed hours of an advancing timestamp compare above zero. -/
theorem fgt_elapsedHours_default {last ts : Timestamp} (h : last.toNat < ts.toNat) :
    fgt (elapsedHours defaultNumerics last ts) fZero = true := by
  obtain ⟨n, hn⟩ : ∃ n : ℕ, delta ts last = n := ⟨ts.toNat - last.toNat, by unfold delta; omega⟩
  have hlo : 1 ≤ n := by unfold delta at hn; omega
  have hhi : n ≤ 2 ^ 32 := by have := ts.isLt; unfold delta at hn; omega
  have hms : isFinite (u2f n) = true := isFinite_u2f hhi
  obtain ⟨hfin, hpos⟩ := value_fdiv_fMsPerHour_pos hms (one_le_value_u2f hlo hms)
  have heh : elapsedHours defaultNumerics last ts = fdiv (u2f n) fMsPerHour := by
    rw [← i2f_natCast, ← hn]; rfl
  rw [heh, fgt_iff_value_lt (isNaN_of_isFinite hfin) (by decide), value_of_isZero (by decide : isZero fZero = true)]
  exact hpos

/-! ### The obligations -/

/-- Settles O26: ELAPSED says to skip, and it is not the non-monotonic case. -/
theorem firstFrameAddsNoEnergy : Obligations.FirstFrameAddsNoEnergy := by
  intro N s F ts hvalid hlen hF
  have hel : elapsed N s ts = .first := elapsed_first hvalid
  rw [processFrame_accepted hF]
  obtain ⟨hcode, hcnm, hcount⟩ := acceptFrame_of_monotonic (F := F) (congrArg Elapsed.isNonMonotonic hel)
  have hskip : ∀ eh, elapsed N s ts ≠ .hours eh := by simp [hel]
  have henergy := acceptFrame_energy_skipped (F := F) hlen hskip
  exact ⟨henergy, hcount, hcode, hcnm, acceptFrame_tsValid .., acceptFrame_lastTimestampMs ..⟩

/-- Settles O27: ELAPSED says to skip and to raise the error; the rest of the frame does not see its timestamp. -/
theorem nonMonotonicFrameSkipsEnergy : Obligations.NonMonotonicFrameSkipsEnergy := by
  intro N s F ts hvalid hts hlen hF
  have hel : elapsed N s ts = .nonMonotonic := elapsed_nonMonotonic hvalid hts
  obtain ⟨hcode, hcnm, hcount⟩ := acceptFrame_of_nonMonotonic (F := F) (congrArg Elapsed.isNonMonotonic hel)
  have hskip : ∀ eh, elapsed N s ts ≠ .hours eh := by simp [hel]
  have henergy := acceptFrame_energy_skipped (F := F) hlen hskip
  rw [processFrame_accepted hF]
  refine ⟨henergy, hcode, hcnm, hcount, acceptFrame_lastTimestampMs .., acceptFrame_tsValid .., fun ts' => ?_⟩
  rw [processFrame_accepted hF]
  have hcycle : (acceptFrame N s F ts).state.framesSinceReport = (acceptFrame N s F ts').state.framesSinceReport := by
    rw [acceptFrame_framesSinceReport, acceptFrame_framesSinceReport]
  exact ⟨acceptFrame_pfHold_timestamp N s F ts ts', hcycle, rfl, rfl, assembleReport_timestamp N s F ts ts'⟩

/-- Settles O28: ELAPSED returns the hours, and ENERGY adds them or, in a record that rounds them to nothing, does not;
the default record does not round so. -/
theorem advancingFrameAddsEnergy : Obligations.AdvancingFrameAddsEnergy := by
  refine ⟨fun N s F ts c hvalid hts hc hF => ?_, fun _ _ => fgt_elapsedHours_default⟩
  have hel : elapsed N s ts = .hours (elapsedHours N s.lastTimestampMs ts) := elapsed_advancing hvalid hts
  obtain ⟨hcode, hcnm, hcount⟩ := acceptFrame_of_monotonic (F := F) (congrArg Elapsed.isNonMonotonic hel)
  have hlane := lane_acceptFrame_energy (N := N) (F := F) (ts := ts) hc
  rw [hel] at hlane
  rw [processFrame_accepted hF]
  exact ⟨hcode, hcnm, hcount, fun hpos => hlane.trans (energyAfter_added hpos _ _),
    fun hnot => hlane.trans (energyAfter_not_added hnot _ _)⟩

end Sys2Proof.Machine
end

section
/-! PROOFS. O20, O21, O34, O35, O36, O38: what PROCESS_FRAME leaves alone, when it emits a report, and what that report
holds (spec/45_process_frame.md R226 to R241). -/

namespace Sys2Proof.Machine

/-! ### Frames that are too short, and registers out of reach -/

/-- Settles O20: the length is tested first, on the codes of a frame as on those of a finished burst. -/
theorem shortFrameChangesNothing : Obligations.ShortFrameChangesNothing := by
  refine ⟨fun N s F ts => processFrame_short, fun code s b hb hlast hm hlen => ?_⟩
  have hshort : (b.codes ++ [code]).length < ({ s with burst := none } : State).params.vctTotal := by simpa using hlen
  rw [execFdat_inside code hb, takeDataWord_last _ hlast, finishFrame_wellFormed (by simpa using hm)]
  exact congrArg _ (congrArg FrameOutcome.answered (processFrame_short hshort))

/-- R44, R237: PROCESS_FRAME indicates a lost report, never a lost frame. -/
theorem processFrame_faultInd_frameBit (N : Numerics) (s : State) (F : List Code) (ts : Timestamp) :
    (processFrame N s F ts).state.faultInd.getLsbD 0 = s.faultInd.getLsbD 0 := by
  obtain ⟨-, h⟩ | ⟨-, h⟩ := processFrame_cases N s F ts
  · rw [h]
  · rw [h, acceptFrame_faultInd]
    split
    · exact getLsbD_or_of_not rfl
    · rfl

/-- Settles O21: one frame lemma of PROCESS_FRAME for each register of R229. -/
theorem frameLeavesOtherRegistersAlone : Obligations.FrameLeavesOtherRegistersAlone :=
  fun N s F ts =>
    ⟨processFrame_params .., processFrame_vcal .., processFrame_ical .., processFrame_phaseCal ..,
      processFrame_reportCycles .., processFrame_mainsFrequency .., processFrame_asmFill .., processFrame_abuf ..,
      processFrame_fslot .., processFrame_overrunCount .., processFrame_frameDropCount ..,
      processFrame_faultInd_frameBit N s F ts, processFrame_port .., processFrame_turns .., processFrame_burst ..⟩

/-! ### The report timer and the hand-off -/

theorem emits_iff (s : State) : emits s = true ↔ s.framesSinceReport + 1#32 = s.reportCycles := beq_iff_eq

theorem acceptFrame_flags_rpt (N : Numerics) (s : State) (F : List Code) (ts : Timestamp) :
    (acceptFrame N s F ts).flags.rpt = emits s := rfl

theorem acceptFrame_flags_drop (N : Numerics) (s : State) (F : List Code) (ts : Timestamp) :
    (acceptFrame N s F ts).flags.drop = (emits s && s.rslot.isSome) := rfl

/-- Settles O34, by whether the frame completes the cycle and whether a report is still unread. -/
theorem reportTimerAndHandOff : Obligations.ReportTimerAndHandOff := by
  intro N s F ts hF o
  rw [show o = acceptFrame N s F ts from processFrame_accepted hF, acceptFrame_flags_rpt, acceptFrame_flags_drop,
    acceptFrame_framesSinceReport, acceptFrame_rslot, acceptFrame_reportDropCount, acceptFrame_faultInd]
  refine ⟨fun hend => ?_, fun hmore => ?_⟩
  · rw [(emits_iff s).2 hend]
    refine ⟨rfl, rfl, rfl, rfl, fun hfull => ?_, fun hempty => ?_⟩
    · rw [hfull]
      exact ⟨rfl, rfl⟩
    · rw [hempty]
      exact ⟨rfl, rfl⟩
  · rw [Bool.eq_false_iff.2 (mt (emits_iff s).1 hmore)]
    exact ⟨rfl, rfl, rfl, rfl, rfl, rfl⟩

/-! ### One report per cycle -/

/-- R234 with R28: an accepted frame completes the cycle and restarts the counter, or the counter, one higher, stays
below `report_cycles`. -/
theorem acceptFrame_cycle_cases (N : Numerics) {s : State} (F : List Code) (ts : Timestamp)
    (h : s.framesSinceReport.toNat < s.reportCycles.toNat) :
    let o := acceptFrame N s F ts
    (o.flags.rpt = true ∧ s.framesSinceReport.toNat + 1 = s.reportCycles.toNat ∧
      o.state.framesSinceReport.toNat = 0) ∨
    (o.flags.rpt = false ∧ s.framesSinceReport.toNat + 1 < s.reportCycles.toNat ∧
      o.state.framesSinceReport.toNat = s.framesSinceReport.toNat + 1) := by
  have hsucc : (s.framesSinceReport + 1#32).toNat = s.framesSinceReport.toNat + 1 :=
    BitVec.toNat_add_of_lt (Nat.lt_of_le_of_lt h s.reportCycles.isLt)
  intro o
  rw [acceptFrame_flags_rpt, acceptFrame_framesSinceReport, ← hsucc]
  cases hemits : emits s with
  | true =>
    have hend := (emits_iff s).1 hemits
    exact .inl ⟨rfl, congrArg BitVec.toNat hend, rfl⟩
  | false =>
    have hne : (s.framesSinceReport + 1#32).toNat ≠ s.reportCycles.toNat :=
      fun he => Bool.eq_false_iff.1 hemits ((emits_iff s).2 (BitVec.eq_of_toNat_eq he))
    exact .inr ⟨rfl, by omega, rfl⟩

/-- R235 from any point of a cycle: the counter and the number of reports are remainder and quotient of the frames
counted since the cycle began. -/
theorem processAll_counts (N : Numerics) (fs : List (List Code × Timestamp)) {s : State}
    (hcount : s.framesSinceReport.toNat < s.reportCycles.toNat)
    (hlen : ∀ f ∈ fs, s.params.vctTotal ≤ f.1.length) :
    (processAll N fs s).1.framesSinceReport.toNat =
      (s.framesSinceReport.toNat + fs.length) % s.reportCycles.toNat ∧
    (processAll N fs s).2 = (s.framesSinceReport.toNat + fs.length) / s.reportCycles.toNat := by
  induction fs generalizing s with
  | nil => exact ⟨(Nat.mod_eq_of_lt hcount).symm, (Nat.div_eq_of_lt hcount).symm⟩
  | cons f fs ih =>
    obtain ⟨hf, hfs⟩ := List.forall_mem_cons.1 hlen
    have hlater := ih (s := (acceptFrame N s f.1 f.2).state)
    rw [acceptFrame_reportCycles, acceptFrame_params] at hlater
    simp only [processAll, processFrame_accepted hf, List.length_cons]
    obtain ⟨hrpt, hend, hzero⟩ | ⟨hrpt, hmore, hone⟩ := acceptFrame_cycle_cases N f.1 f.2 hcount
    · obtain ⟨hrest, hreports⟩ := hlater (by omega) hfs
      have hframes : s.framesSinceReport.toNat + (fs.length + 1) = fs.length + s.reportCycles.toNat := by omega
      rw [hrest, hreports, hrpt, hzero, hframes, Nat.add_mod_right, Nat.add_div_right _ (by omega), Nat.zero_add]
      exact ⟨rfl, rfl⟩
    · obtain ⟨hrest, hreports⟩ := hlater (by omega) hfs
      rw [hrest, hreports, hrpt, hone, Nat.add_right_comm]
      exact ⟨rfl, rfl⟩

/-- Settles O35: reset stands at the beginning of a cycle. -/
theorem exactlyOneReportPerCycle : Obligations.ExactlyOneReportPerCycle := by
  intro N p fs hp hlen r
  obtain ⟨hrest, hreports⟩ := processAll_counts N fs (shape_resetOf hp).framesSinceReport hlen
  have hstart : (State.resetOf p).framesSinceReport.toNat = 0 := rfl
  rw [hstart, Nat.zero_add] at hrest hreports
  exact ⟨hrest, hreports⟩

/-! ### The emitted report -/

/-- R226: only an accepted frame emits a report. -/
theorem accepted_of_rpt {N : Numerics} {s : State} {F : List Code} {ts : Timestamp}
    (h : (processFrame N s F ts).flags.rpt = true) : s.params.vctTotal ≤ F.length := by
  by_contra hshort
  rw [processFrame_short (Nat.lt_of_not_le hshort)] at h
  cases h

theorem lane_assembleReport_realPower {N : Numerics} {s : State} {F : List Code} {ts : Timestamp} {c : Nat}
    (h : c < s.params.ctActive) : lane (assembleReport N s F ts).realPower c = realPower N s F c :=
  lane_channelResults_processed h (·.realPower)

/-- Settles O36: the report in the slot is the one assembled from the frame, field by field. -/
theorem reportIsSnapshotOfFrame : Obligations.ReportIsSnapshotOfFrame := by
  intro N s F ts hrpt
  have hF := accepted_of_rpt hrpt
  rw [processFrame_accepted hF] at hrpt ⊢
  exact ⟨assembleReport N s F ts, acceptFrame_rslot_of_rpt hrpt, reportShape_assembleReport N s F ts, rfl,
    (acceptFrame_energy N s F ts).symm, fun v hv => lane_assembleReport_voltageRms hv,
    fun c hc => ⟨lane_assembleReport_currentRms hc, lane_assembleReport_realPower hc⟩⟩

/-! ### METER and FRAME -/

/-- A turn of METER at the head of the schedule is used up, whatever METER finds (R232). -/
theorem step_meter {s : State} (hl : paramsLegal s.params = true) :
    step { s with turns := .meter :: s.turns } = .next (meterTurn s) := by
  simp only [step, hl, if_true]
  rfl

/-- Settles O38: both METER and the run of the `FRAME` command are PROCESS_FRAME on the state with `fslot` emptied. -/
theorem meterAgreesWithFrame : Obligations.MeterAgreesWithFrame := by
  intro s hl
  refine ⟨fun e he hb hlen hc => ?_, fun e he => ?_, fun he => ?_⟩
  · have hframe := fun port turns =>
      processFrame_update (numericsOf s.params) s e.frame e.ts s.asmFill s.abuf none s.overrunCount s.frameDropCount
        port turns s.burst s.response
    have hrun := frameCommandRunsProcessFrame
      { s with
        fslot := none
        turns := List.replicate (e.frame.length + 1) .command
        port := encodeFrame e.ts e.frame } e.ts e.frame [] [] hl hb (.inl (List.append_nil _).symm) hlen hc
      (List.append_nil _).symm
    rw [hframe [] []] at hrun
    rw [step_meter hl, meterTurn_enabled he, hframe s.port s.turns]
    exact ⟨_, _, rfl, hrun, rfl, rfl⟩
  · rw [step_meter hl, meterTurn_enabled he]
  · rw [step_meter hl, meterTurn_idle he]

end Sys2Proof.Machine
end

section
/-! PROOFS. O40 to O47: the calibration setters, the energy commands and the read-outs
(spec/46_config_and_readout.md R250 to R262). One equation per outcome of each command; the two laws of R252 are run on
the equations of the setters. -/

namespace Sys2Proof.Machine

/-! ### One command -/

theorem exec_nop (s : State) : exec .nop s = .next (s.answer .ok {} []) := rfl

/-- R252: the index names a voltage channel. -/
theorem exec_setv_inRange {ch : BitVec 8} {s : State} (scale : F32) (h : ch.toNat < s.params.v) :
    exec (.setv ch scale) s = .next (({ s with vcal := s.vcal.set ch.toNat scale } : State).answer .ok {} []) := by
  simp only [exec, execSetv]
  rw [if_neg (Nat.not_le_of_lt h)]

/-- R253: the index names no voltage channel. -/
theorem exec_setv_outOfRange {ch : BitVec 8} {s : State} (scale : F32) (h : s.params.v ≤ ch.toNat) :
    exec (.setv ch scale) s = .next (s.answer .invalidChannelIndex {} []) := by
  simp only [exec, execSetv]
  rw [if_pos h]

/-- R254: the index names a current channel, processed or not. -/
theorem exec_seti_inRange {ch : BitVec 8} {s : State} (scale : F32) (h : ch.toNat < s.params.ct) :
    exec (.seti ch scale) s = .next (({ s with ical := s.ical.set ch.toNat scale } : State).answer .ok {} []) := by
  simp only [exec, execSeti]
  rw [if_neg (Nat.not_le_of_lt h)]

/-- R255: the index names no current channel. -/
theorem exec_seti_outOfRange {ch : BitVec 8} {s : State} (scale : F32) (h : s.params.ct ≤ ch.toNat) :
    exec (.seti ch scale) s = .next (s.answer .invalidChannelIndex {} []) := by
  simp only [exec, execSeti]
  rw [if_pos h]

theorem exec_rste (s : State) :
    exec .rste s = .next (({ s with energy := s.energy.map fun _ => fZero } : State).answer .ok {} []) := rfl

theorem exec_gete (s : State) : exec .gete s = .next (s.answer .ok {} s.energy) := rfl

/-- R260: a report waits in the slot. -/
theorem exec_popr_full {s : State} {e : ReportEntry} (h : s.rslot = some e) :
    exec .popr s = .next (({ s with rslot := none } : State).answer .ok {} (e.report.words ++ [e.ts])) := by
  simp only [exec, execPopr, h]

/-- R260: the slot is empty. -/
theorem exec_popr_empty {s : State} (h : s.rslot = none) : exec .popr s = .next (s.answer .empty {} []) := by
  simp only [exec, execPopr, h]

theorem exec_diag (s : State) :
    exec .diag s = .next (s.answer .ok {}
      [s.overrunCount, s.frameDropCount, s.reportDropCount, s.nmCount, s.faultInd.setWidth 32]) := rfl

/-! ### Setters one after another -/

/-- Writing the same scale again writes nothing new, and a refused index is refused again. -/
theorem exec_setv_idempotent (ch : BitVec 8) (scale : F32) (s : State) :
    ∃ t, exec (.setv ch scale) s = .next t ∧ exec (.setv ch scale) t = .next t := by
  rcases Nat.lt_or_ge ch.toNat s.params.v with h | h
  · refine ⟨_, exec_setv_inRange scale h, (exec_setv_inRange scale ?_).trans ?_⟩
    · exact h
    · rw [answer_vcal, List.set_set]
      rfl
  · exact ⟨_, exec_setv_outOfRange scale h, exec_setv_outOfRange scale h⟩

theorem exec_seti_idempotent (ch : BitVec 8) (scale : F32) (s : State) :
    ∃ t, exec (.seti ch scale) s = .next t ∧ exec (.seti ch scale) t = .next t := by
  rcases Nat.lt_or_ge ch.toNat s.params.ct with h | h
  · refine ⟨_, exec_seti_inRange scale h, (exec_seti_inRange scale ?_).trans ?_⟩
    · exact h
    · rw [answer_ical, List.set_set]
      rfl
  · exact ⟨_, exec_seti_outOfRange scale h, exec_seti_outOfRange scale h⟩

/-- The first of two commands runs, and the second in the state it leaves. -/
theorem execAll_pair {i : Instr} (j : Instr) {s t : State} (h : exec i s = .next t) :
    execAll [i, j] s = exec j t := by
  have hfirst : execAll [i] s = .next t := (execAll_singleton i s).trans h
  exact (execAll_append hfirst).trans (execAll_singleton j t)

/-- Two setters in range leave both scales written, the later one last. -/
theorem execAll_setv_pair {a b : BitVec 8} {s : State} (x y : F32) (ha : a.toNat < s.params.v)
    (hb : b.toNat < s.params.v) :
    execAll [.setv a x, .setv b y] s =
      .next (({ s with vcal := (s.vcal.set a.toNat x).set b.toNat y } : State).answer .ok {} []) :=
  (execAll_pair _ (exec_setv_inRange x ha)).trans (exec_setv_inRange y hb)

theorem execAll_seti_pair {a b : BitVec 8} {s : State} (x y : F32) (ha : a.toNat < s.params.ct)
    (hb : b.toNat < s.params.ct) :
    execAll [.seti a x, .seti b y] s =
      .next (({ s with ical := (s.ical.set a.toNat x).set b.toNat y } : State).answer .ok {} []) :=
  (execAll_pair _ (exec_seti_inRange x ha)).trans (exec_seti_inRange y hb)

/-- Settles O43: a register written twice at one index keeps the second write, and writes at two indices commute. -/
theorem settersIdempotentAndCommuting : Obligations.SettersIdempotentAndCommuting := by
  intro a b x y s
  refine ⟨exec_setv_idempotent a x s, exec_seti_idempotent a x s, fun hne ha hb => ?_, fun hne ha hb => ?_⟩
  · rw [execAll_setv_pair x y ha hb, execAll_setv_pair y x hb ha, List.set_comm x y (mt BitVec.eq_of_toNat_eq hne)]
  · rw [execAll_seti_pair x y ha hb, execAll_seti_pair y x hb ha, List.set_comm x y (mt BitVec.eq_of_toNat_eq hne)]

/-! ### The commands alone -/

/-- Settles O40: the word by evaluation of the encoder, the effect by the equation of `NOP`. -/
theorem nopAnswersOk : Obligations.NopAnswersOk :=
  ⟨by decide, exec_nop⟩

/-- Settles O41: the two sides of the bound `V`. -/
theorem setvIsBoundsChecked : Obligations.SetvIsBoundsChecked :=
  fun _ scale _ => ⟨exec_setv_inRange scale, exec_setv_outOfRange scale⟩

/-- Settles O42: the two sides of the bound `CT`. -/
theorem setiIsBoundsChecked : Obligations.SetiIsBoundsChecked :=
  fun _ scale _ => ⟨exec_seti_inRange scale, exec_seti_outOfRange scale⟩

/-- Settles O44: replacing every accumulator by `+0.0` leaves a list of zeros as long as before. -/
theorem rsteZeroesAccumulators : Obligations.RsteZeroesAccumulators := by
  intro s
  have hzeros : (s.energy.map fun _ => fZero) = List.replicate s.energy.length 0x00000000#32 := List.map_const' ..
  rw [exec_rste, hzeros]
  rfl

/-- Settles O45: `GETE` puts the list of accumulators itself into its response. -/
theorem geteAnswersAccumulators : Obligations.GeteAnswersAccumulators :=
  exec_gete

/-- Settles O46: the slot full and the slot empty. -/
theorem poprDeliversAndEmpties : Obligations.PoprDeliversAndEmpties :=
  fun _ => ⟨fun _ => exec_popr_full, exec_popr_empty⟩

/-- Settles O47: zero-extending the sticky bits is writing their number in 32 bits. -/
theorem diagAnswersCounters : Obligations.DiagAnswersCounters := by
  intro s
  rw [exec_diag, ← BitVec.ofNat_toNat]
  rfl

end Sys2Proof.Machine
end

section
/-! PROOFS. O51: a machine in a well-shaped state never stops (spec/60_exceptions.md R286). A model has two stops, an
illegal instance (R332) and a `PUSH` into an overfull buffer (R123); the shape of the state shuts out both. -/

namespace Sys2Proof.Machine

/-- Below the bound of the sequencer every instruction is answered (R123). -/
theorem exec_next_of_asmFill_lt (i : Instr) {s : State} (h : s.asmFill < s.params.vctTotal) :
    ∃ t, exec i s = .next t := by
  rcases exec_next_or_fault i s with hnext | ⟨code, ts, -, hfull, -⟩
  · exact hnext
  · exact absurd hfull (Nat.not_le_of_lt h)

/-- The schedule gives the turn to METER. -/
theorem step_of_meter_turn {s : State} (hl : paramsLegal s.params = true) (ht : nextTurn s = .meter) :
    step s = .next (meterTurn (useTurn s)) := by
  simp only [step, hl, ht, if_true]

/-- A turn of the command port with no word waiting passes without effect (R294). -/
theorem step_of_no_word {s : State} (hl : paramsLegal s.params = true) (ht : nextTurn s = .command)
    (hp : s.port = []) : step s = .next (useTurn s) := by
  simp only [step_command hl ht, commandTurn, portWord, useTurn_port, hp, List.head?_nil]

/-- Settles O51: METER and an idle port always answer, a rejected word is answered too (R96), and a decoded word finds
the sequencer below its bound. -/
theorem shapedMachineNeverStops : Obligations.ShapedMachineNeverStops := by
  intro s hs
  cases ht : nextTurn s with
  | meter => exact ⟨_, step_of_meter_turn hs.legal ht⟩
  | command =>
    cases hp : s.port with
    | nil => exact ⟨_, step_of_no_word hs.legal ht hp⟩
    | cons w rest =>
      cases hd : decodeIn s.burst.isSome s.params w with
      | error e => exact ⟨_, step_of_decode_error hs.legal ht hp hd⟩
      | ok i =>
        rw [step_of_decode_ok hs.legal ht hp hd]
        exact exec_next_of_asmFill_lt i hs.asmFill

end Sys2Proof.Machine
end

section
/-! PROOFS. O8: the ranges of R6, outside which no instance exists (spec/70_reset_and_hazards.md R332). `paramsLegal`
asks for the two binary32 parameters by comparisons; here each is said by value. -/

namespace Sys2Proof.Machine

/-- R6: "finite and above 0", asked of a pattern, is so by value. A NaN compares above nothing. -/
theorem not_isInf_and_fgt_zero_iff (x : F32) :
    isInf x = false ∧ fgt x fZero = true ↔ isFinite x = true ∧ 0 < value x := by
  have hzero : isNaN fZero = false ∧ value fZero = 0 := ⟨by decide, value_of_isZero (by decide)⟩
  rw [isFinite_iff_not]
  cases hn : isNaN x with
  | true => simp [fgt, hn]
  | false => rw [fgt_iff_value_lt hn hzero.1, hzero.2]; tauto

/-- R6: a pattern is a finite number in `[-1, 1]` when it is not a NaN and compares neither below -1 nor above 1. An
infinity compares outside. -/
theorem pfInUnit_iff (x : F32) : pfInUnit x ↔ isNaN x = false ∧ flt x fNegOne = false ∧ fgt x fOne = false := by
  constructor
  · rintro ⟨hfin, hlo, hhi⟩
    have hn := isNaN_of_isFinite hfin
    refine ⟨hn, eq_false_of_ne_true fun hlt => ?_, eq_false_of_ne_true fun hgt => ?_⟩
    · rw [flt_iff_value_lt hn isNaN_fNegOne, value_fNegOne] at hlt
      exact hlo.not_gt hlt
    · rw [fgt_iff_value_lt hn isNaN_fOne, value_fOne] at hgt
      exact hhi.not_gt hgt
  · rintro ⟨hn, hlo, hhi⟩
    exact pfInUnit_of_pfInRange hn (.inr ⟨hlo, hhi⟩)

theorem ne_zero_iff_one_le_toNat (x : Word32) : x ≠ 0#32 ↔ 1 ≤ x.toNat := by
  rw [Nat.one_le_iff_ne_zero, ne_eq, ← BitVec.toNat_inj, BitVec.toNat_ofNat, Nat.zero_mod]

/-- The ranges of R6, by value. -/
theorem paramsLegal_iff (p : Params) : paramsLegal p = true ↔
    (1 ≤ p.v ∧ p.v ≤ 255) ∧ (1 ≤ p.ct ∧ p.ct ≤ 255) ∧ (1 ≤ p.adcBits ∧ p.adcBits ≤ 16) ∧ p.ref < p.v ∧
    (isFinite p.adcVref = true ∧ 0 < value p.adcVref) ∧ 1 ≤ p.ctProcMax ∧ 1 ≤ p.reportCycles.toNat ∧
    (p.vctTotal ≤ p.frameMax ∧ p.frameMax ≤ 65535) ∧ pfInUnit p.pfDefault := by
  rw [← not_isInf_and_fgt_zero_iff, ← ne_zero_iff_one_le_toNat, pfInUnit_iff]
  simp only [paramsLegal, Bool.and_eq_true, Bool.not_eq_true', decide_eq_true_eq]
  tauto

/-- No instance exists outside the ranges of R6, so the machine stops (R332, U6). -/
theorem step_of_illegal_instance {s : State} (h : paramsLegal s.params = false) :
    step s = .refused .illegalInstance := by
  simp only [step, h, Bool.false_eq_true, if_false]

/-- Settles O8. -/
theorem legalInstancesAreThoseOfR332 : Obligations.LegalInstancesAreThoseOfR332 :=
  ⟨paramsLegal_iff, fun _ => step_of_illegal_instance⟩

end Sys2Proof.Machine
end
